-- ==== Sys2Proof/Word.lean ====
section
/-! DEFINITION. The widths of the TRC block's values, by the names the spec uses (spec/00_scope.md R6, R7; spec/30_encoding.md R60). -/

namespace Sys2Proof

/-- A byte on the bus, or the 8-bit operand `arg8` (R60). -/
abbrev Byte := BitVec 8

/-- A 16-bit sensor register word (R15). -/
abbrev Half := BitVec 16

/-- A 32-bit operand or result: `cmd.arg32`, `rsp.result` (R11, R60, R61). -/
abbrev Word := BitVec 32

/-- A 48-bit command word, `CMDW` (R6, R60). -/
abbrev CmdWord := BitVec 48

/-- A 34-bit response word (R61). -/
abbrev RspWord := BitVec 34

/-- A 7-bit bus device address (R6, R14). -/
abbrev DevAddr := BitVec 7

end Sys2Proof
end

