-- ==== Sys2Proof/Syntax.lean ====
section
/-! DEFINITION. The operations of the block (spec/30_encoding.md R62), one constructor per row of the opcode table, and the text form of a command (R69, R70). -/

namespace Sys2Proof

/-- The thirteen operations, each with the operands R63 gives it at the width R63 gives them. Every term is a legal
command: an operand whose VALUE an operation refuses (a pointer, a bit width) is still an operand (R66). -/
inductive Instr where
  /-- `RDREG ptr` (R80). -/
  | rdreg (ptr : Byte)
  /-- `WRREG ptr, data` (R81). -/
  | wrreg (ptr : Byte) (data : Half)
  /-- `GETTEMP` (R90). -/
  | gettemp
  /-- `CHKFLAGS req, strict` (R100). -/
  | chkflags (req : Half) (strict : Bool)
  /-- `TOSIGNED u, w` (R110). -/
  | tosigned (u : Word) (w : Byte)
  /-- `TOUNSIGNED s, w` (R111); `v` holds the 32 bits of the signed operand `s`. -/
  | tounsigned (v : Word) (w : Byte)
  /-- `DECTEMP word` (R91). -/
  | dectemp (word : Half)
  /-- `ENCTEMP n` (R92); `n` holds the 32 bits of the signed operand. -/
  | enctemp (n : Word)
  /-- `EXTFLAGS word` (R101). -/
  | extflags (word : Half)
  /-- `MATCHFLAGS word, req, strict` (R102). -/
  | matchflags (word : Half) (req : Half) (strict : Bool)
  /-- `UNPACKCFG word` (R120). -/
  | unpackcfg (word : Half)
  /-- `DECHYST code` (R121). -/
  | dechyst (code : BitVec 2)
  /-- `DECRES byte` (R122). -/
  | decres (byte : Byte)
  deriving DecidableEq, Repr

/-- A command in its text form (R69): the operands are the numbers written, in the order R69 writes them; a number
may be written negative, and a number too large for its field can be written down, so `Asm.wellFormed` checks them.
`tosignedDefault` is the pseudo-instruction `TOSIGNED u` (R70). -/
inductive Asm where
  | rdreg (ptr : Int)
  | wrreg (ptr data : Int)
  | gettemp
  | chkflags (req strict : Int)
  | tosigned (u w : Int)
  | tosignedDefault (u : Int)
  | tounsigned (v w : Int)
  | dectemp (word : Int)
  | enctemp (n : Int)
  | extflags (word : Int)
  | matchflags (word req strict : Int)
  | unpackcfg (word : Int)
  | dechyst (code : Int)
  | decres (byte : Int)
  deriving DecidableEq, Repr

end Sys2Proof
end

