-- ==== Sys2Proof/Decode.lean ====
section
/-! DEFINITION. The command word: its fields (spec/30_encoding.md R60), decoding (R63, R66, R67), encoding, and the opcode table's masks and matches (R67). -/

namespace Sys2Proof

/-- The three fields of a command word (R60). -/
structure Cmd where
  opc : Byte
  arg8 : Byte
  arg32 : Word
  deriving DecidableEq, Repr

/-- Slicing a command word into its fields: `opc` 47:40, `arg8` 39:32, `arg32` 31:0 (R60). -/
def Cmd.unpack (cmd : CmdWord) : Cmd :=
  { opc := cmd.extractLsb' 40 8, arg8 := cmd.extractLsb' 32 8, arg32 := cmd.extractLsb' 0 32 }

/-- The command word of three fields (R60). -/
def Cmd.pack (c : Cmd) : CmdWord := (c.opc ++ c.arg8) ++ c.arg32

/-- Reserved bits must be zero (R63, R66). -/
def whenZero {n : Nat} (reserved : BitVec n) (i : Instr) : Option Instr :=
  if reserved = 0 then some i else none

/-- `strict` is `arg8[0]` (R63, R64). -/
def strictBit (arg8 : Byte) : Bool := arg8.getLsbD 0

/-- The operation three fields spell, operands sliced as R63 says; `none` where `opc` selects no operation or a
reserved bit is set (R66). -/
def Cmd.decode (c : Cmd) : Option Instr :=
  match c.opc with
  | 0x01#8 => whenZero c.arg32 (.rdreg c.arg8)
  | 0x02#8 => whenZero (c.arg32.extractLsb' 16 16) (.wrreg c.arg8 (c.arg32.extractLsb' 0 16))
  | 0x03#8 => whenZero (c.arg8 ++ c.arg32) .gettemp
  | 0x04#8 => whenZero (c.arg8.extractLsb' 1 7 ++ c.arg32.extractLsb' 16 16)
      (.chkflags (c.arg32.extractLsb' 0 16) (strictBit c.arg8))
  | 0x05#8 => some (.tosigned c.arg32 c.arg8)
  | 0x06#8 => some (.tounsigned c.arg32 c.arg8)
  | 0x10#8 => whenZero (c.arg8 ++ c.arg32.extractLsb' 16 16) (.dectemp (c.arg32.extractLsb' 0 16))
  | 0x11#8 => whenZero c.arg8 (.enctemp c.arg32)
  | 0x12#8 => whenZero (c.arg8 ++ c.arg32.extractLsb' 16 16) (.extflags (c.arg32.extractLsb' 0 16))
  | 0x13#8 => whenZero (c.arg8.extractLsb' 1 7)
      (.matchflags (c.arg32.extractLsb' 16 16) (c.arg32.extractLsb' 0 16) (strictBit c.arg8))
  | 0x20#8 => whenZero (c.arg8 ++ c.arg32.extractLsb' 16 16) (.unpackcfg (c.arg32.extractLsb' 0 16))
  | 0x21#8 => whenZero (c.arg8 ++ c.arg32.extractLsb' 2 30) (.dechyst (c.arg32.extractLsb' 0 2))
  | 0x22#8 => whenZero (c.arg8 ++ c.arg32.extractLsb' 8 24) (.decres (c.arg32.extractLsb' 0 8))
  | _ => none

/-- Decoding, total on the 2^48 words: an operation, or `none`, which the block answers with `IllegalCommand` (R66, R67). -/
def decode (cmd : CmdWord) : Option Instr := (Cmd.unpack cmd).decode

/-- `arg8` of a matching mode: `strict` in bit 0, the rest reserved (R63). -/
def strictArg (strict : Bool) : Byte := if strict then 1#8 else 0#8

/-- A 16-bit operand in the low half of `arg32`, the high half reserved (R64). -/
def lowHalf (h : Half) : Word := 0#16 ++ h

/-- The fields of an operation's command, reserved bits zero (R62, R63). -/
def Instr.toCmd : Instr → Cmd
  | .rdreg ptr => ⟨0x01#8, ptr, 0#32⟩
  | .wrreg ptr data => ⟨0x02#8, ptr, lowHalf data⟩
  | .gettemp => ⟨0x03#8, 0#8, 0#32⟩
  | .chkflags req strict => ⟨0x04#8, strictArg strict, lowHalf req⟩
  | .tosigned u w => ⟨0x05#8, w, u⟩
  | .tounsigned v w => ⟨0x06#8, w, v⟩
  | .dectemp word => ⟨0x10#8, 0#8, lowHalf word⟩
  | .enctemp n => ⟨0x11#8, 0#8, n⟩
  | .extflags word => ⟨0x12#8, 0#8, lowHalf word⟩
  | .matchflags word req strict => ⟨0x13#8, strictArg strict, word ++ req⟩
  | .unpackcfg word => ⟨0x20#8, 0#8, lowHalf word⟩
  | .dechyst code => ⟨0x21#8, 0#8, 0#30 ++ code⟩
  | .decres byte => ⟨0x22#8, 0#8, 0#24 ++ byte⟩

/-- The command word of an operation (R60, R62, R63, R71). -/
def encode (i : Instr) : CmdWord := i.toCmd.pack

/-- An operation's mnemonic (R62). -/
def Instr.mnemonic : Instr → String
  | .rdreg _ => "RDREG"
  | .wrreg _ _ => "WRREG"
  | .gettemp => "GETTEMP"
  | .chkflags _ _ => "CHKFLAGS"
  | .tosigned _ _ => "TOSIGNED"
  | .tounsigned _ _ => "TOUNSIGNED"
  | .dectemp _ => "DECTEMP"
  | .enctemp _ => "ENCTEMP"
  | .extflags _ => "EXTFLAGS"
  | .matchflags _ _ _ => "MATCHFLAGS"
  | .unpackcfg _ => "UNPACKCFG"
  | .dechyst _ => "DECHYST"
  | .decres _ => "DECRES"

/-- One row of the opcode table (R67). -/
structure OpcodeRow where
  mnemonic : String
  value : CmdWord
  mask : CmdWord
  deriving DecidableEq, Repr

/-- A row matches a word (R67: `(cmd & r.mask) = r.match`). -/
def OpcodeRow.matches (r : OpcodeRow) (cmd : CmdWord) : Bool := (cmd &&& r.mask) == r.value

/-- The thirteen masks and matches of R67. -/
def opcodeTable : List OpcodeRow :=
  [ ⟨"RDREG", 0x010000000000#48, 0xFF00FFFFFFFF#48⟩,
    ⟨"WRREG", 0x020000000000#48, 0xFF00FFFF0000#48⟩,
    ⟨"GETTEMP", 0x030000000000#48, 0xFFFFFFFFFFFF#48⟩,
    ⟨"CHKFLAGS", 0x040000000000#48, 0xFFFEFFFF0000#48⟩,
    ⟨"TOSIGNED", 0x050000000000#48, 0xFF0000000000#48⟩,
    ⟨"TOUNSIGNED", 0x060000000000#48, 0xFF0000000000#48⟩,
    ⟨"DECTEMP", 0x100000000000#48, 0xFFFFFFFF0000#48⟩,
    ⟨"ENCTEMP", 0x110000000000#48, 0xFFFF00000000#48⟩,
    ⟨"EXTFLAGS", 0x120000000000#48, 0xFFFFFFFF0000#48⟩,
    ⟨"MATCHFLAGS", 0x130000000000#48, 0xFFFE00000000#48⟩,
    ⟨"UNPACKCFG", 0x200000000000#48, 0xFFFFFFFF0000#48⟩,
    ⟨"DECHYST", 0x210000000000#48, 0xFFFFFFFFFFFC#48⟩,
    ⟨"DECRES", 0x220000000000#48, 0xFFFFFFFFFF00#48⟩ ]

/-- The command word whose low `nbits` bits are those of `w` and whose other bits are zero. A command is ONE word of 48
bits (R60, R68), so the table's bit numbers are the word's own and no byte order enters (log 14). -/
def tableWord (nbits w : Nat) : CmdWord := BitVec.ofNat 48 (w % 2 ^ nbits)

/-- What the decoder reads from a table row's word. -/
def decodeTableWord (nbits w : Nat) : Option Instr := decode (tableWord nbits w)

end Sys2Proof
end

