-- ==== Sys2Proof/Config.lean ====
section
/-! DEFINITION. What one instance of the block fixes, the open parameters of spec/00_scope.md R6, and the free values: constants with no body, of which nothing in Lean can evaluate or prove a value. -/

namespace Sys2Proof

/-- `IOERR`, the open type of the value an `IoError` carries (R6, R132, spec/92_eei_decisions.md D16).
DESIGN CHOICE, log 3: the errors of a transport are named by tokens; the block only passes a token on. -/
structure IoErr where
  token : Nat
  deriving DecidableEq, Repr, Inhabited

/-- How one transport call goes, as the transport and not the sensor decides it: it is carried to the device,
it answers failure with the transport's own error, or it never answers (R41, R158). -/
inductive Delivery where
  | carried
  | failed (e : IoErr)
  | silent
  deriving DecidableEq, Repr, Inhabited

namespace Config

/-- The device address of an instance made without one (R6, R28). -/
def defaultDevAddr : DevAddr := 0x18#7

/-- FREE VALUE (log 5): how the transport call with draw number `n` goes, where `State.line` lists nothing for it (U6). -/
opaque delivery : Nat → Delivery

/-- FREE VALUE (log 6): what the sensor register at a pointer holds at draw `n` (R27, R28, U1, U2, U11). -/
opaque sensorWord : Nat → Byte → Half

/-- FREE VALUE (log 6): the word the sensor shows at a read with its pointer at a register, at draw `n`. It is a constant
of its own: a read says nothing of what the register holds afterwards (R27, R49, U1). -/
opaque shownWord : Nat → Byte → Half

/-- FREE VALUE (log 7): the sensor's register pointer at draw `n` (R25, R28, U12). -/
opaque sensorPointer : Nat → Byte

/-- FREE VALUE (log 4): the bits by which `rsp.result` shows a transport error "as far as it fits" (R61, D16). -/
opaque ioErrBits : IoErr → Word

/-- FREE VALUE (log 8): the error `SimSensor` answers to a call to another device address (R152). -/
opaque otherAddressError : Nat → IoErr

end Config

end Sys2Proof
end

