-- ==== Sys2Proof/Machine/State.lean ====
section
/-! DEFINITION. The state of the machine: the block, the host's commands and the observable outcome, the transport's and the sensor's part (spec/10_state.md, spec/20_memory.md R40, R41, spec/70_reset_and_hazards.md R150 to R159), its reset, and how a step can stop. -/

namespace Sys2Proof.Machine

/-- A transport call the block makes (R41). -/
inductive BusCall where
  /-- `BusWrite(a, bytes)`: one write transaction to device `a`. -/
  | write (a : DevAddr) (bytes : List Byte)
  /-- `BusRead(a, n)`: one read transaction of `n` bytes from device `a`. -/
  | read (a : DevAddr) (n : Nat)
  deriving DecidableEq, Repr

/-- What became of a transport call (R41, R158). -/
inductive BusAnswer where
  /-- `ok`, with the bytes received, first byte first (none for a write). -/
  | ok (bytes : List Byte)
  /-- `fail(e)`. -/
  | fail (e : IoErr)
  /-- No answer, ever. -/
  | silent
  deriving DecidableEq, Repr

/-- One entry of the bus trace: a call with its arguments and its answer (R159). -/
structure BusEvent where
  call : BusCall
  answer : BusAnswer
  deriving DecidableEq, Repr

/-- The three error kinds (R130). -/
inductive ErrorKind where
  | ioError (e : IoErr)
  | invalidArgument
  | illegalCommand
  deriving DecidableEq, Repr

/-- One response (R61, R130): success with its result, or an error. `IoError` carries the transport's value unchanged (R132). -/
inductive Response where
  | ok (result : Word)
  | error (kind : ErrorKind)
  deriving DecidableEq, Repr

/-- Which sensor stands behind the transport: the open parameter `Sensor` (R6). -/
inductive SensorModel where
  /-- The sensor under no law (R27, U1, U11): `reads` are the words it shows at its next reads, whichever register is
  read; past the list's end every word is a free value (log 6). What the sensor's registers hold is then never shown, and no
  read constrains it (R49). -/
  | oracle (reads : List Half)
  /-- `SimSensor` (R152), for tests only: `amb` are the ambient words to come, `addr` the device address it answers at. -/
  | sim (amb : List Half) (addr : DevAddr)
  deriving DecidableEq, Repr

/-- The sensor: its register pointer (R25) and its eight registers (R15 to R23). -/
structure Sensor where
  ptr : Byte
  config : Half
  upperLimit : Half
  lowerLimit : Half
  critLimit : Half
  ambient : Half
  manufId : Half
  deviceId : Half
  resolution : Byte
  model : SensorModel
  deriving DecidableEq, Repr

/-- What the contract excludes and the surroundings may still do (R154, R155, D25). -/
inductive Contention where
  /-- The host sends a second command before the response to the first (R155). -/
  | secondCommand (cmd : CmdWord)
  /-- Another agent uses the same sensor or the same transport (R154). -/
  | secondOwner
  deriving DecidableEq, Repr

/-- The machine's state. INVENTORY.md, '## State', gives each field's rule and reset value. -/
structure State where
  devAddr : DevAddr
  program : List CmdWord
  responses : List Response
  trace : List BusEvent
  waiting : Option BusCall
  contention : Option Contention
  line : List Delivery
  sensor : Sensor
  draws : Nat
  deriving DecidableEq, Repr

/-- How the machine stops with a fault. -/
inductive Fault where
  /-- Raised by `step` in a state that waits for a transport call which is never answered (R40, R158, U4: stuck).
  Safe: the real block waits for ever and does nothing. -/
  | transportSilent
  deriving DecidableEq, Repr

/-- Why a step has no meaning. -/
inductive Refusal where
  /-- Raised by an arm of `exec` that has no meaning yet; no arm does. Safe. -/
  | notModelled (mnemonic : String)
  /-- Raised by `step` where a second command is in flight (R155, D25: the spec gives no meaning). Safe. -/
  | overlappingCommand
  /-- Raised by `step` where another agent owns the bus too (R154, D25: the spec gives no meaning). Safe. -/
  | sharedBus
  deriving DecidableEq, Repr

/-- The sensor at power-on, under no law: every register and the pointer unspecified, so free values (R28, log 6). -/
def Sensor.powerOn : Sensor where
  ptr := Config.sensorPointer 0
  config := Config.sensorWord 0 0x01#8
  upperLimit := Config.sensorWord 0 0x02#8
  lowerLimit := Config.sensorWord 0 0x03#8
  critLimit := Config.sensorWord 0 0x04#8
  ambient := Config.sensorWord 0 0x05#8
  manufId := Config.sensorWord 0 0x06#8
  deviceId := Config.sensorWord 0 0x07#8
  resolution := (Config.sensorWord 0 0x08#8).setWidth 8
  model := .oracle []

/-- A block instance made with device address `a` (R28, R150): nothing asked, nothing answered, no bus transaction
made, no operation in progress. `draws` is the model's own counter (log 13). -/
def State.resetWith (a : DevAddr) : State where
  devAddr := a
  program := []
  responses := []
  trace := []
  waiting := none
  contention := none
  line := []
  sensor := Sensor.powerOn
  draws := 1

/-- Reset: `DEVADDR` is `0x18` when none is given (R28). -/
def State.reset : State := State.resetWith Config.defaultDevAddr

end Sys2Proof.Machine
end

