-- ==== Sys2Proof/Machine/Operands.lean ====
section
/-! DEFINITION. Operands, masks, pointers, byte order, the integer codecs and the result and response formats (spec/10_state.md R15 to R24, spec/20_memory.md R42 to R45, spec/30_encoding.md R61, R64, R65, spec/43_signed_helpers.md R110 to R112). -/

namespace Sys2Proof.Machine

/-! ### Masks (R6, R20, R120) -/

/-- `MAGMASK`, the temperature field of the ambient word, bits 12:0. -/
def magMask : Half := 0x1FFF#16

/-- `FLAGMASK`, "inverse of the magnitude mask", bits 15:13. -/
def flagMask : Half := ~~~magMask

/-- The flag constants of a request (R20). -/
def critFlag : Half := 0x8000#16
def upperFlag : Half := 0x4000#16
def lowerFlag : Half := 0x2000#16

/-- The mask of all described fields of the Config word (R120 (e)). -/
def configMask : Half := 0x07FF#16

/-! ### Register pointers (R15, R42) -/

/-- `valid(ptr)`: the pointer names a register. -/
def validPtr (ptr : Byte) : Bool := decide (0x01 ≤ ptr.toNat) && decide (ptr.toNat ≤ 0x08)

/-- `writable(ptr)`: WRREG may write the register (R26). -/
def writablePtr (ptr : Byte) : Bool := decide (0x01 ≤ ptr.toNat) && decide (ptr.toNat ≤ 0x04)

/-- `width(ptr)` in bytes: below 8, two; 8, one (R15). -/
def ptrWidth (ptr : Byte) : Nat := if ptr.toNat < 0x08 then 2 else 1

/-- The pointer of the ambient register (R15). -/
def ambientPtr : Byte := 0x05#8

/-! ### Byte order on the bus (R44, R45) -/

/-- `v[15:8]`. -/
def hiByte (v : Half) : Byte := v.extractLsb' 8 8

/-- `v[7:0]`. -/
def loByte (v : Half) : Byte := v.extractLsb' 0 8

/-- The bytes of a register word as a read of `n` bytes sends them: big-endian, or the one byte (R45, R47).
DESIGN CHOICE, log 8: a read of any other length sends two bytes, where R152 and R41 differ; no operation makes such a read. -/
def bytesOf (n : Nat) (v : Half) : List Byte := if n = 1 then [loByte v] else [hiByte v, loByte v]

/-- The word of the bytes received, the first byte the most significant (R43, R45). -/
def wordOfBytes (bytes : List Byte) : Half :=
  BitVec.ofNat 16 (bytes.foldl (fun acc b => acc * 256 + b.toNat) 0)

/-! ### Integer values (R7, R64, R112) -/

/-- An `i32` operand: 32 bits read as two's complement, `arg32[30:0] - 2^31 * arg32[31]` (R64). -/
def i32Value (v : Word) : Int := v.toInt

/-- An integer as 32 bits of two's complement: `sext_32` of a count, an `i32` on the wire (R7, R65). -/
def i32Bits (r : Int) : Word := BitVec.ofInt 32 r

/-- An unsigned result as 32 bits, for values below 2^32 (R65). -/
def u32Bits (r : Int) : Word := BitVec.ofInt 32 r

/-- `zext_32` of a 16-bit word (R65). -/
def zext32 (v : Half) : Word := v.setWidth 32

/-- A Boolean result: 1 for true, 0 for false (R65). -/
def boolResult (b : Bool) : Word := if b then 1#32 else 0#32

/-- The integer `2^w`. -/
def pow2 (w : Nat) : Int := ((2 ^ w : Nat) : Int)

/-- TOSIGNED on integers (R110): `none` is `IllegalCommand`. Only bit `w-1` is tested and `2^w` is subtracted from the
WHOLE value; a result that is no `i32` is refused, never wrapped. -/
def toSigned (u : Word) (w : Byte) : Option Int :=
  if w.toNat < 1 ∨ 32 < w.toNat then none
  else
    let r : Int := if u.getLsbD (w.toNat - 1) then (u.toNat : Int) - pow2 w.toNat else (u.toNat : Int)
    if r < -2147483648 ∨ 2147483647 < r then none else some r

/-- TOUNSIGNED on integers (R111): `none` is `IllegalCommand`. No saturation and no wrap. -/
def toUnsigned (v : Word) (w : Byte) : Option Int :=
  if w.toNat < 1 ∨ 32 < w.toNat then none
  else if i32Value v < -pow2 (w.toNat - 1) ∨ pow2 (w.toNat - 1) - 1 < i32Value v then none
  else if i32Value v < 0 then some (i32Value v + pow2 w.toNat)
  else some (i32Value v)

/-! ### Temperature (R91, R92, R93) -/

/-- The count of a register word (R91): mask first, then the sign test on bit 12 of the masked value. -/
def decTemp (word : Half) : Int :=
  let m := word &&& magMask
  if m.getLsbD 12 then (m.toNat : Int) - 8192 else (m.toNat : Int)

/-- The register word of a count (R92): `n mod 8192` in bits 12:0, bits 15:13 zero; `none` is `IllegalCommand`. -/
def encTemp (n : Int) : Option Half :=
  if n < -4096 ∨ 4095 < n then none else some (BitVec.ofInt 16 (n % 8192))

/-- The temperature a count stands for, in degrees Celsius: exactly `n / 16` (R7, R93). -/
def celsius (n : Int) : ℚ := (n : ℚ) / 16

/-! ### Configuration and resolution (R16, R17, R24, R120 to R122) -/

/-- The ten fields of the Config word (R16). -/
structure ConfigFlags where
  hyst : BitVec 2
  shdn : Bool
  critLock : Bool
  winLock : Bool
  intClear : Bool
  alertStat : Bool
  alertEn : Bool
  alertSel : Bool
  alertPol : Bool
  alertMode : Bool
  deriving DecidableEq, Repr

/-- The fields of a Config word, or of an UNPACKCFG result, each at its position (R16, R120; the positions 8 to 0 are
the spec's decision D6). -/
def ConfigFlags.ofWord (word : Half) : ConfigFlags where
  hyst := word.extractLsb' 9 2
  shdn := word.getLsbD 8
  critLock := word.getLsbD 7
  winLock := word.getLsbD 6
  intClear := word.getLsbD 5
  alertStat := word.getLsbD 4
  alertEn := word.getLsbD 3
  alertSel := word.getLsbD 2
  alertPol := word.getLsbD 1
  alertMode := word.getLsbD 0

/-- UNPACKCFG's result: every field at its own position, bits 15:11 dropped (R65, R120). -/
def unpackConfig (word : Half) : Word := zext32 (word &&& configMask)

/-- The hysteresis of a code, in counts (R17, R121; the order of the codes is the spec's decision D7). -/
def hystCounts (code : BitVec 2) : Word :=
  match code with
  | 0#2 => 0#32
  | 1#2 => 24#32
  | 2#2 => 48#32
  | 3#2 => 96#32

/-- The resolution code of a Resolution byte, bits 1:0 (R23). -/
def resCode (byte : Byte) : BitVec 2 := byte.extractLsb' 0 2

/-- The resolution step of a byte, in counts (R24, R122; the order of the codes is the spec's decision D8). -/
def resCounts (byte : Byte) : Word :=
  match resCode byte with
  | 0#2 => 8#32
  | 1#2 => 4#32
  | 2#2 => 2#32
  | 3#2 => 1#32

/-! ### The response ports (R11, R61, R131) -/

/-- `rsp.status`. -/
def Response.status : Response → BitVec 2
  | .ok _ => 0#2
  | .error (.ioError _) => 1#2
  | .error .invalidArgument => 2#2
  | .error .illegalCommand => 3#2

/-- `rsp.result`: with `IoError` the transport's value as far as it fits, its coding open (log 4). -/
def Response.result : Response → Word
  | .ok r => r
  | .error (.ioError e) => Config.ioErrBits e
  | .error .invalidArgument => 0#32
  | .error .illegalCommand => 0#32

/-- The 34-bit response word: `status` in 33:32, `result` in 31:0 (R61). -/
def Response.word (r : Response) : RspWord := r.status ++ r.result

end Sys2Proof.Machine
end

