-- ==== Sys2Proof/Machine/Ops.lean ====
section
/-! DEFINITION. The shared operations: giving a response, raising an error, the sensor, the transport call, the register read and write, fetching a command (spec/20_memory.md, spec/60_exceptions.md, spec/70_reset_and_hazards.md R152 to R159). -/

namespace Sys2Proof.Machine

/-! ### Responses and errors -/

/-- Give a response (R61, R159). -/
def State.respond (s : State) (r : Response) : State := { s with responses := s.responses ++ [r] }

/-- Raise an error: the operation ends with the error in its response, and only there; nothing is saved and nothing
changes (R8, R134). There is no return from it (R137). -/
def State.raise (s : State) (k : ErrorKind) : State := s.respond (.error k)

/-! ### The sensor -/

/-- The value of the register a pointer names, a byte register zero-extended; a pointer that names none has an
unspecified value (log 8), drawn at `n`. -/
def Sensor.reg (v : Sensor) (n : Nat) (p : Byte) : Half :=
  match p with
  | 0x01#8 => v.config
  | 0x02#8 => v.upperLimit
  | 0x03#8 => v.lowerLimit
  | 0x04#8 => v.critLimit
  | 0x05#8 => v.ambient
  | 0x06#8 => v.manufId
  | 0x07#8 => v.deviceId
  | 0x08#8 => v.resolution.setWidth 16
  | _ => Config.sensorWord n p

/-- The register a pointer names now holds a value; a pointer that names none changes nothing. -/
def Sensor.setReg (v : Sensor) (p : Byte) (x : Half) : Sensor :=
  match p with
  | 0x01#8 => { v with config := x }
  | 0x02#8 => { v with upperLimit := x }
  | 0x03#8 => { v with lowerLimit := x }
  | 0x04#8 => { v with critLimit := x }
  | 0x05#8 => { v with ambient := x }
  | 0x06#8 => { v with manufId := x }
  | 0x07#8 => { v with deviceId := x }
  | 0x08#8 => { v with resolution := x.setWidth 8 }
  | _ => v

/-- The sensor under no law after something happened to it: every register and the pointer hold free values (R27, R49,
U1, U11, U12; log 6, log 7). -/
def Sensor.unsettled (v : Sensor) (n : Nat) : Sensor where
  ptr := Config.sensorPointer n
  config := Config.sensorWord n 0x01#8
  upperLimit := Config.sensorWord n 0x02#8
  lowerLimit := Config.sensorWord n 0x03#8
  critLimit := Config.sensorWord n 0x04#8
  ambient := Config.sensorWord n 0x05#8
  manufId := Config.sensorWord n 0x06#8
  deviceId := Config.sensorWord n 0x07#8
  resolution := (Config.sensorWord n 0x08#8).setWidth 8
  model := v.model

/-- The device address is the one the sensor answers at: R151 makes it so for the oracle, R152 checks it for `SimSensor`. -/
def Sensor.answersAt (v : Sensor) (a : DevAddr) : Bool :=
  match v.model with
  | .oracle _ => true
  | .sim _ addr => decide (a = addr)

/-- A write transaction reaches the sensor. The oracle: a select write `[q]` leaves the pointer at `q` (R25), all else
is under no law (N5, N9, U11). `SimSensor`: as R152 writes it. -/
def Sensor.takeWrite (v : Sensor) (n : Nat) (bytes : List Byte) : Sensor :=
  match v.model with
  | .oracle _ =>
    match bytes with
    | [q] => { v.unsettled n with ptr := q }
    | _ => v.unsettled n
  | .sim _ _ =>
    match bytes with
    | [q] => { v with ptr := q }
    | [q, hi, lo] =>
      if writablePtr q then ({ v with ptr := q }).setReg q (hi ++ lo) else { v with ptr := q }
    | _ => v

/-- The sensor after a read transaction. The oracle: every register, the one just read among them, holds a free value that
the word shown does not determine, since a read may or may not clear something (R49), and the pointer is unspecified (U12);
one listed word is used up. `SimSensor`: the next ambient sample is in its register where the pointer is `0x05`, the last one
repeating; else nothing changes (R152). -/
def Sensor.afterRead (v : Sensor) (n : Nat) : Sensor :=
  match v.model with
  | .oracle (_ :: rest) => { v.unsettled n with model := .oracle rest }
  | .oracle [] => v.unsettled n
  | .sim (x :: rest) addr =>
    if v.ptr = ambientPtr then { v with ambient := x, model := .sim rest addr } else v
  | .sim [] _ => v

/-- The word the sensor shows at a read transaction, its pointer selecting the register (R25, R43). The oracle: the next
listed word, or a free value (R27, R49, U1). `SimSensor`: what that register holds, the ambient sample already taken (R152). -/
def Sensor.readWord (v : Sensor) (n : Nat) : Half :=
  match v.model with
  | .oracle (x :: _) => x
  | .oracle [] => Config.shownWord n v.ptr
  | .sim _ _ => (v.afterRead n).reg n v.ptr

/-- What a call that did not succeed leaves in the sensor: unknown for the oracle (N14), nothing for `SimSensor` (R152, log 12). -/
def Sensor.afterFailure (v : Sensor) (n : Nat) : Sensor :=
  match v.model with
  | .oracle _ => v.unsettled n
  | .sim _ _ => v

/-! ### The transport call (R40, R41) -/

/-- The device address a call is made to. -/
def BusCall.addr : BusCall → DevAddr
  | .write a _ => a
  | .read a _ => a

/-- A carried call at the sensor: its answer and the sensor after it. -/
def Sensor.serve (v : Sensor) (n : Nat) (c : BusCall) : BusAnswer × Sensor :=
  if v.answersAt c.addr then
    match c with
    | .write _ bytes => (.ok [], v.takeWrite n bytes)
    | .read _ k => (.ok (bytesOf k (v.readWord n)), v.afterRead n)
  else (.fail (Config.otherAddressError n), v)

/-- How the next transport call goes: as listed, else a free value (U6, log 5). -/
def State.delivery (s : State) : Delivery :=
  match s.line with
  | d :: _ => d
  | [] => Config.delivery s.draws

/-- The answer of a call and the sensor after it, as the transport delivers it. -/
def State.transfer (s : State) (c : BusCall) : BusAnswer × Sensor :=
  match s.delivery with
  | .carried => s.sensor.serve s.draws c
  | .failed e => (.fail e, s.sensor.afterFailure s.draws)
  | .silent => (.silent, s.sensor.afterFailure s.draws)

/-- The answer the next transport call gets, if it is `c`. -/
def State.busAnswer (s : State) (c : BusCall) : BusAnswer := (s.transfer c).1

/-- The state after the transport call `c`: the call and its answer are in the trace (R159); a call that is never
answered leaves the block waiting (R40, R158). The block does not retry, time out or cancel. -/
def State.afterCall (s : State) (c : BusCall) : State :=
  { s with
    line := s.line.tail
    draws := s.draws + 1
    sensor := (s.transfer c).2
    trace := s.trace ++ [⟨c, s.busAnswer c⟩]
    waiting := if s.busAnswer c = .silent then some c else s.waiting }

/-! ### Register read and write (R43, R44) -/

/-- How a register access ended: with a value, with the transport's error, or not at all. -/
inductive RegResult where
  | value (v : Half)
  | ioError (e : IoErr)
  | hung
  deriving DecidableEq, Repr

/-- The select write of a register read: one byte, the pointer (R43). -/
def selectCall (s : State) (ptr : Byte) : BusCall := .write s.devAddr [ptr]

/-- The read transaction of a register read, as long as the register is wide (R43, R47). -/
def readCall (s : State) (ptr : Byte) : BusCall := .read s.devAddr (ptrWidth ptr)

/-- `RegRead(ptr)`: select write, then read, two transactions; the read is not issued after a failed select write (R43). -/
def regRead (s : State) (ptr : Byte) : RegResult × State :=
  match s.busAnswer (selectCall s ptr) with
  | .fail e => (.ioError e, s.afterCall (selectCall s ptr))
  | .silent => (.hung, s.afterCall (selectCall s ptr))
  | .ok _ =>
    let s1 := s.afterCall (selectCall s ptr)
    match s1.busAnswer (readCall s1 ptr) with
    | .fail e => (.ioError e, s1.afterCall (readCall s1 ptr))
    | .silent => (.hung, s1.afterCall (readCall s1 ptr))
    | .ok bytes => (.value (wordOfBytes bytes), s1.afterCall (readCall s1 ptr))

/-- The one transaction of a register write: the pointer, then the data, most significant byte first (R44; the byte
order is the spec's decision D13). -/
def writeCall (s : State) (ptr : Byte) (data : Half) : BusCall :=
  .write s.devAddr [ptr, hiByte data, loByte data]

/-- `RegWrite(ptr, v)` (R44). Its value is the result of the operation, 0. -/
def regWrite (s : State) (ptr : Byte) (data : Half) : RegResult × State :=
  match s.busAnswer (writeCall s ptr data) with
  | .fail e => (.ioError e, s.afterCall (writeCall s ptr data))
  | .silent => (.hung, s.afterCall (writeCall s ptr data))
  | .ok _ => (.value 0#16, s.afterCall (writeCall s ptr data))

/-- End an operation on what a register access gave: `f` of the value with status `OK`, the error unchanged with
`IoError` (R132), or no response while the block waits (R158). -/
def finish (f : Half → Word) (r : RegResult × State) : State :=
  match r.1 with
  | .value v => r.2.respond (.ok (f v))
  | .ioError e => r.2.raise (.ioError e)
  | .hung => r.2

/-- End a pure operation: its result, or `IllegalCommand` where its operands are outside its domain (R138). -/
def State.answer (s : State) (r : Option Word) : State :=
  match r with
  | some v => s.respond (.ok v)
  | none => s.raise .illegalCommand

/-! ### Fetching (R12, R155) -/

/-- The host has sent the first command of its program: it is not to be sent again. -/
def State.sent (s : State) : State := { s with program := s.program.tail }

/-- The host sends the command `cmd` next, and the contract holds: no call is awaited and nobody contends. -/
def State.withCommand (s : State) (cmd : CmdWord) : State :=
  { s with program := cmd :: s.program, waiting := none, contention := none }

/-- Why a state is out of contract (R154, R155). -/
def Contention.refusal : Contention → Refusal
  | .secondCommand _ => .overlappingCommand
  | .secondOwner => .sharedBus

end Sys2Proof.Machine
end

