-- ==== Sys2Proof/Machine/Flags.lean ====
section
/-! DEFINITION. The alert flags of an ambient word and the flag-match comparator (spec/10_state.md R19, R20, spec/42_alert_flags.md R101, R102). The block itself has no flags (R13). -/

namespace Sys2Proof.Machine

/-- The alert flags of an ambient word, kept at bits 15:13 (R101). -/
def extFlags (word : Half) : Half := word &&& flagMask

/-- The flag-match comparator (R102): strict is all-of, non-strict is any-of; the request is not masked (D20). -/
def matchFlags (word req : Half) (strict : Bool) : Bool :=
  let a := extFlags word &&& req
  if strict then decide (a = req) else decide (a ≠ 0#16)

end Sys2Proof.Machine
end

