-- ==== Sys2Proof/Machine/AlertFlags.lean ====
section
/-! DEFINITION. CHKFLAGS, EXTFLAGS and MATCHFLAGS (spec/42_alert_flags.md R100 to R102). -/

namespace Sys2Proof.Machine

/-- `CHKFLAGS req, strict` (R100): read the ambient register, then compare as MATCHFLAGS does. -/
def execChkflags (req : Half) (strict : Bool) (s : State) : Host.Outcome State Fault Refusal :=
  .next (finish (fun word => boolResult (matchFlags word req strict)) (regRead s ambientPtr))

/-- `EXTFLAGS word` (R101). -/
def execExtflags (word : Half) (s : State) : Host.Outcome State Fault Refusal :=
  .next (s.respond (.ok (zext32 (extFlags word))))

/-- `MATCHFLAGS word, req, strict` (R102). -/
def execMatchflags (word req : Half) (strict : Bool) (s : State) : Host.Outcome State Fault Refusal :=
  .next (s.respond (.ok (boolResult (matchFlags word req strict))))

end Sys2Proof.Machine
end

