-- ==== Sys2Proof/Machine/ConfigUnpack.lean ====
section
/-! DEFINITION. UNPACKCFG, DECHYST and DECRES (spec/44_config_unpack.md R120 to R122). -/

namespace Sys2Proof.Machine

/-- `UNPACKCFG word` (R120). -/
def execUnpackcfg (word : Half) (s : State) : Host.Outcome State Fault Refusal :=
  .next (s.respond (.ok (unpackConfig word)))

/-- `DECHYST code` (R121). -/
def execDechyst (code : BitVec 2) (s : State) : Host.Outcome State Fault Refusal :=
  .next (s.respond (.ok (hystCounts code)))

/-- `DECRES byte` (R122): bits 7:2 ignored. -/
def execDecres (byte : Byte) (s : State) : Host.Outcome State Fault Refusal :=
  .next (s.respond (.ok (resCounts byte)))

end Sys2Proof.Machine
end

