-- ==== Sys2Proof/Machine/Register.lean ====
section
/-! DEFINITION. RDREG and WRREG (spec/40_register_access.md R80, R81). -/

namespace Sys2Proof.Machine

/-- `RDREG ptr` (R80): the pointer check first, with no bus transaction (R133), then the register read, zero-extended. -/
def execRdreg (ptr : Byte) (s : State) : Host.Outcome State Fault Refusal :=
  .next (if validPtr ptr then finish zext32 (regRead s ptr) else s.raise .invalidArgument)

/-- `WRREG ptr, data` (R81): `0x01` to `0x04` only, else `InvalidArgument` with no bus transaction (R26, R133); the data
goes as given, unchecked and unmasked. -/
def execWrreg (ptr : Byte) (data : Half) (s : State) : Host.Outcome State Fault Refusal :=
  .next (if writablePtr ptr then finish zext32 (regWrite s ptr data) else s.raise .invalidArgument)

end Sys2Proof.Machine
end

