-- ==== Sys2Proof/Machine/SignedHelpers.lean ====
section
/-! DEFINITION. TOSIGNED and TOUNSIGNED (spec/43_signed_helpers.md R110, R111). -/

namespace Sys2Proof.Machine

/-- `TOSIGNED u, w` (R110). -/
def execTosigned (u : Word) (w : Byte) (s : State) : Host.Outcome State Fault Refusal :=
  .next (s.answer ((toSigned u w).map i32Bits))

/-- `TOUNSIGNED s, w` (R111). -/
def execTounsigned (v : Word) (w : Byte) (s : State) : Host.Outcome State Fault Refusal :=
  .next (s.answer ((toUnsigned v w).map u32Bits))

end Sys2Proof.Machine
end

