-- ==== Sys2Proof/Machine/Temperature.lean ====
section
/-! DEFINITION. GETTEMP, DECTEMP and ENCTEMP (spec/41_temperature.md R90 to R92). -/

namespace Sys2Proof.Machine

/-- `GETTEMP` (R90): read the ambient register, then decode as DECTEMP does. -/
def execGettemp (s : State) : Host.Outcome State Fault Refusal :=
  .next (finish (fun word => i32Bits (decTemp word)) (regRead s ambientPtr))

/-- `DECTEMP word` (R91). -/
def execDectemp (word : Half) (s : State) : Host.Outcome State Fault Refusal :=
  .next (s.respond (.ok (i32Bits (decTemp word))))

/-- `ENCTEMP n` (R92): `IllegalCommand` where 13 bits cannot hold the count. -/
def execEnctemp (n : Word) (s : State) : Host.Outcome State Fault Refusal :=
  .next (s.answer ((encTemp (i32Value n)).map zext32))

end Sys2Proof.Machine
end

