-- ==== Sys2Proof/Machine/Dispatch.lean ====
section
/-! DEFINITION. One arm per operation, each one call of its meaning (spec/30_encoding.md R62). -/

namespace Sys2Proof.Machine

def exec (i : Instr) (s : State) : Host.Outcome State Fault Refusal :=
  match i with
  | .rdreg ptr => Sys2Proof.Machine.execRdreg ptr s
  | .wrreg ptr data => Sys2Proof.Machine.execWrreg ptr data s
  | .gettemp => Sys2Proof.Machine.execGettemp s
  | .chkflags req strict => Sys2Proof.Machine.execChkflags req strict s
  | .tosigned u w => Sys2Proof.Machine.execTosigned u w s
  | .tounsigned v w => Sys2Proof.Machine.execTounsigned v w s
  | .dectemp word => Sys2Proof.Machine.execDectemp word s
  | .enctemp n => Sys2Proof.Machine.execEnctemp n s
  | .extflags word => Sys2Proof.Machine.execExtflags word s
  | .matchflags word req strict => Sys2Proof.Machine.execMatchflags word req strict s
  | .unpackcfg word => Sys2Proof.Machine.execUnpackcfg word s
  | .dechyst code => Sys2Proof.Machine.execDechyst code s
  | .decres byte => Sys2Proof.Machine.execDecres byte s

end Sys2Proof.Machine
end

