-- ==== Sys2Proof/Machine/Sequencer.lean ====
section
/-! DEFINITION. Taking the host's commands one after the other (spec/10_state.md R12, spec/20_memory.md R51, spec/30_encoding.md R66, spec/60_exceptions.md R136, spec/70_reset_and_hazards.md R155, R158). -/

namespace Sys2Proof.Machine

/-- The block takes one command word: decoding comes first, and a word that is not legal is answered `IllegalCommand` with
no bus transaction (R66, R136). -/
def runCommand (cmd : CmdWord) (s : State) : Host.Outcome State Fault Refusal :=
  match decode cmd with
  | some i => exec i s
  | none => .next (s.raise .illegalCommand)

/-- One step of a state: out of contract it is refused (R154, R155); waiting for a transport call that is never answered it
has no further step (R158, log 9); with no command to take nothing happens (R135, log 1); else the next command is taken. -/
def takeCommand (s : State) : Host.Outcome State Fault Refusal :=
  match s.contention with
  | some c => .refused c.refusal
  | none =>
    match s.waiting with
    | some _ => .fault .transportSilent
    | none =>
      match s.program with
      | [] => .next s
      | cmd :: _ => runCommand cmd s.sent

end Sys2Proof.Machine
end

