-- ==== Sys2Proof/Machine/Step.lean ====
section
/-! DEFINITION. One step is one command, start to end (spec/00_scope.md R4, R5, spec/20_memory.md R51; log 1). -/

namespace Sys2Proof.Machine

/-- One step of the machine. -/
def step (s : State) : Host.Outcome State Fault Refusal := takeCommand s

/-- `s` with the table's word sent as the very next command (log 18). -/
def State.withFetchWord (s : State) (nbits w : Nat) : State := s.withCommand (tableWord nbits w)

end Sys2Proof.Machine
end

