-- ==== Sys2Proof/WellFormed.lean ====
section
/-! DEFINITION. Which text commands are well formed (spec/30_encoding.md R63, R64, R69). A term of `Instr` needs no check: each operand has exactly the width its field has, so every term is well formed by its type. -/

namespace Sys2Proof

/-- The number fits an unsigned field of `n` bits (R64: `ptr`, `w`, `u`, `req`, `word`, `data`, `code`, `byte`). -/
def fitsUnsigned (n : Nat) (x : Int) : Bool := decide (0 ≤ x) && decide (x < ((2 ^ n : Nat) : Int))

/-- The number is an `i32` (R64: `s` of TOUNSIGNED, `n` of ENCTEMP). -/
def fitsI32 (x : Int) : Bool := decide (-2147483648 ≤ x) && decide (x ≤ 2147483647)

/-- Every number written fits its field (R63). DESIGN CHOICE, log 15: R69 does not say what becomes of a number that
does not fit; such a line is no command. -/
def Asm.wellFormed : Asm → Bool
  | .rdreg ptr => fitsUnsigned 8 ptr
  | .wrreg ptr data => fitsUnsigned 8 ptr && fitsUnsigned 16 data
  | .gettemp => true
  | .chkflags req strict => fitsUnsigned 16 req && fitsUnsigned 1 strict
  | .tosigned u w => fitsUnsigned 32 u && fitsUnsigned 8 w
  | .tosignedDefault u => fitsUnsigned 32 u
  | .tounsigned v w => fitsI32 v && fitsUnsigned 8 w
  | .dectemp word => fitsUnsigned 16 word
  | .enctemp n => fitsI32 n
  | .extflags word => fitsUnsigned 16 word
  | .matchflags word req strict => fitsUnsigned 16 word && fitsUnsigned 16 req && fitsUnsigned 1 strict
  | .unpackcfg word => fitsUnsigned 16 word
  | .dechyst code => fitsUnsigned 2 code
  | .decres byte => fitsUnsigned 8 byte

end Sys2Proof
end

