-- ==== Sys2Proof/Machine/Assembler.lean ====
section
/-! DEFINITION. The text form of a command (spec/30_encoding.md R69, R70): from a line of text to `Asm`, from `Asm` to an operation and its command word. The block never sees this form. -/

namespace Sys2Proof

/-- The default bit width of `TOSIGNED u` (R6, R70). -/
def tosignedDefaultWidth : Byte := 11#8

/-- The operation a text command stands for, if every number fits its field (R69); a negative number is taken
`mod 2^32`. -/
def Asm.toInstr (a : Asm) : Option Instr :=
  if a.wellFormed then
    some (match a with
      | .rdreg ptr => .rdreg (BitVec.ofInt 8 ptr)
      | .wrreg ptr data => .wrreg (BitVec.ofInt 8 ptr) (BitVec.ofInt 16 data)
      | .gettemp => .gettemp
      | .chkflags req strict => .chkflags (BitVec.ofInt 16 req) (decide (strict = 1))
      | .tosigned u w => .tosigned (BitVec.ofInt 32 u) (BitVec.ofInt 8 w)
      | .tosignedDefault u => .tosigned (BitVec.ofInt 32 u) tosignedDefaultWidth
      | .tounsigned v w => .tounsigned (BitVec.ofInt 32 v) (BitVec.ofInt 8 w)
      | .dectemp word => .dectemp (BitVec.ofInt 16 word)
      | .enctemp n => .enctemp (BitVec.ofInt 32 n)
      | .extflags word => .extflags (BitVec.ofInt 16 word)
      | .matchflags word req strict =>
        .matchflags (BitVec.ofInt 16 word) (BitVec.ofInt 16 req) (decide (strict = 1))
      | .unpackcfg word => .unpackcfg (BitVec.ofInt 16 word)
      | .dechyst code => .dechyst (BitVec.ofInt 2 code)
      | .decres byte => .decres (BitVec.ofInt 8 byte))
  else none

namespace Text

/-- A space or a tab. -/
def isBlank (c : Char) : Bool := c == ' ' || c == '\t'

/-- A text without the blanks around it. -/
def trim (l : List Char) : List Char := ((l.dropWhile isBlank).reverse.dropWhile isBlank).reverse

/-- A line without its comment: `;` starts one (R69). -/
def dropComment (l : List Char) : List Char := l.takeWhile (· != ';')

/-- A line without its `-> name` (R69: the host gives the result a name; the block has nowhere to keep it). -/
def dropName : List Char → List Char
  | [] => []
  | '-' :: '>' :: _ => []
  | c :: rest => c :: dropName rest

/-- The value of a digit in a base up to 16. -/
def digit (base : Nat) (c : Char) : Option Nat :=
  let n :=
    if '0' ≤ c ∧ c ≤ '9' then c.toNat - '0'.toNat
    else if 'a' ≤ c ∧ c ≤ 'f' then c.toNat - 'a'.toNat + 10
    else if 'A' ≤ c ∧ c ≤ 'F' then c.toNat - 'A'.toNat + 10
    else base
  if n < base then some n else none

/-- The value of a non-empty list of digits, the first the most significant. -/
def digits (base : Nat) : List Char → Option Nat
  | [] => none
  | l => l.foldl (fun acc c => acc.bind fun a => (digit base c).map fun d => a * base + d) (some 0)

/-- A number: decimal, or `0x` hexadecimal (R69). -/
def unsigned : List Char → Option Nat
  | '0' :: 'x' :: l => digits 16 l
  | l => digits 10 l

/-- A number, `-` making it negative (R69). -/
def number : List Char → Option Int
  | '-' :: l => (unsigned l).map fun n => -(n : Int)
  | l => (unsigned l).map fun n => (n : Int)

/-- The register names (R70). -/
def registerNames : List (List Char × Int) :=
  [("CONFIG".toList, 1), ("UPPER_LIMIT".toList, 2), ("LOWER_LIMIT".toList, 3), ("CRIT_LIMIT".toList, 4),
    ("AMBIENT".toList, 5), ("MANUF_ID".toList, 6), ("DEVICE_ID".toList, 7), ("RESOLUTION".toList, 8)]

/-- The flag names (R70). -/
def flagNames : List (List Char × Nat) :=
  [("CRIT".toList, 0x8000), ("UPPER".toList, 0x4000), ("LOWER".toList, 0x2000)]

/-- The names of the matching modes (R70). -/
def modeNames : List (List Char × Int) := [("STRICT".toList, 1), ("ANY".toList, 0)]

/-- A number, or a name of a list. -/
def numberOr (names : List (List Char × Int)) (l : List Char) : Option Int :=
  (number l).or (names.lookup l)

/-- Flag names joined with `|` (R70). -/
def joinedFlags (l : List Char) : Option Int :=
  (((l.splitOn '|').mapM fun t => flagNames.lookup (trim t)).map fun ns => ((ns.foldl Nat.lor 0 : Nat) : Int))

/-- A request: a number, or flag names joined with `|` (R70). -/
def request (l : List Char) : Option Int := (number l).or (joinedFlags l)

/-- The text command of a mnemonic and its operands, in R69's order. -/
def command (mnemonic : List Char) (ops : List (List Char)) : Option Asm :=
  match String.ofList mnemonic, ops with
  | "RDREG", [p] => (numberOr registerNames p).map .rdreg
  | "WRREG", [p, d] => (numberOr registerNames p).bind fun p => (number d).map (.wrreg p)
  | "GETTEMP", [] => some .gettemp
  | "CHKFLAGS", [r, m] => (request r).bind fun r => (numberOr modeNames m).map (.chkflags r)
  | "TOSIGNED", [u, w] => (number u).bind fun u => (number w).map (.tosigned u)
  | "TOSIGNED", [u] => (number u).map .tosignedDefault
  | "TOUNSIGNED", [v, w] => (number v).bind fun v => (number w).map (.tounsigned v)
  | "DECTEMP", [x] => (number x).map .dectemp
  | "ENCTEMP", [n] => (number n).map .enctemp
  | "EXTFLAGS", [x] => (number x).map .extflags
  | "MATCHFLAGS", [x, r, m] =>
    (number x).bind fun x => (request r).bind fun r => (numberOr modeNames m).map (.matchflags x r)
  | "UNPACKCFG", [x] => (number x).map .unpackcfg
  | "DECHYST", [c] => (number c).map .dechyst
  | "DECRES", [b] => (number b).map .decres
  | _, _ => none

/-- The operands of a line after its mnemonic, separated by commas (R69). -/
def operands (l : List Char) : List (List Char) :=
  if trim l = [] then [] else (l.splitOn ',').map trim

/-- The text command of a line, if the line holds one (R69). -/
def parseLine (line : List Char) : Option Asm :=
  let body := trim (dropName (dropComment line))
  command (body.takeWhile fun c => !isBlank c) (operands (body.dropWhile fun c => !isBlank c))

/-- The command word of a line of text (R69, R71). -/
def assembleLine (line : String) : Option CmdWord :=
  (parseLine line.toList).bind fun a => a.toInstr.map encode

end Text

end Sys2Proof
end

