-- ==== Sys2Proof/Safety.lean ====
section
/-! DEFINITION. What counts as a safe run: the bus protocol of the block (spec/20_memory.md R41 to R44, R47, R50, spec/70_reset_and_hazards.md R153), and the run all of whose responses are `OK` (spec/60_exceptions.md R137). -/

namespace Sys2Proof.Machine

/-- A write transaction answers with no bytes, with failure, or never (R41). -/
def BusAnswer.ofWrite : BusAnswer → Bool
  | .ok bytes => bytes.isEmpty
  | .fail _ => true
  | .silent => true

/-- A read transaction of `n` bytes answers with exactly `n` bytes, with failure, or never (R41). -/
def BusAnswer.ofRead (n : Nat) : BusAnswer → Bool
  | .ok bytes => bytes.length == n
  | .fail _ => true
  | .silent => true

/-- The answer is a success. -/
def BusAnswer.isOk : BusAnswer → Bool
  | .ok _ => true
  | _ => false

/-- The event is a select write of a register's pointer at device `a` (R43, R50). -/
def BusEvent.isSelect (a : DevAddr) (ptr : Byte) (e : BusEvent) : Bool :=
  decide (e.call = .write a [ptr]) && validPtr ptr && e.answer.ofWrite

/-- The event is the read that follows the select write of `ptr` at device `a`, as long as the register is wide (R43, R47). -/
def BusEvent.isReadOf (a : DevAddr) (ptr : Byte) (e : BusEvent) : Bool :=
  decide (e.call = .read a (ptrWidth ptr)) && e.answer.ofRead (ptrWidth ptr)

/-- The event is a register write at device `a`: a writable pointer and two data bytes (R42, R44). -/
def BusEvent.isRegWrite (a : DevAddr) (e : BusEvent) : Bool :=
  match e.call with
  | .write b [ptr, _, _] => decide (b = a) && writablePtr ptr && e.answer.ofWrite
  | _ => false

/-- A trace keeps the bus protocol: it is a sequence of register writes (one transaction), of select writes that did not
succeed, and of pairs of a select write that succeeded and the read it selects; all at device `a`, all with pointers the
block admits. No read stands without its select write just before it, and no select write that succeeded stands without
its read (R43, R44, R153). -/
def traceKeepsProtocol (a : DevAddr) : List BusEvent → Bool
  | [] => true
  | e :: rest =>
    if e.isRegWrite a then traceKeepsProtocol a rest
    else
      match e.call with
      | .write _ [ptr] =>
        if e.answer.isOk then
          match rest with
          | [] => false
          | r :: rest' => e.isSelect a ptr && r.isReadOf a ptr && traceKeepsProtocol a rest'
        else e.isSelect a ptr && traceKeepsProtocol a rest
      | _ => false

/-- A state that waits waits for the last call of its trace, and for nothing else (R158). -/
def waitsForLastCall (s : State) : Bool :=
  match s.waiting with
  | none => true
  | some c => decide (s.trace.getLast? = some ⟨c, .silent⟩)

/-- The invariant of the machine: its trace keeps the bus protocol at its own device address, and a wait is for the last
call made. -/
def State.protocolOk (s : State) : Bool := traceKeepsProtocol s.devAddr s.trace && waitsForLastCall s

/-- Every response so far was `OK`: the usual premise of a claim about a command list (R137). -/
def State.allOk (s : State) : Bool := s.responses.all fun r => decide (r.status = 0#2)

/-- The block stands ready for a command: the contract holds and no call is awaited (R155, R158). -/
def State.ready (s : State) : Bool := decide (s.contention = none) && decide (s.waiting = none)

end Sys2Proof.Machine
end

