-- ==== Sys2Proof/Certificates/Slice0/Obligations.lean ====
section
/-! DEFINITION. The statements for the provers. Each docstring names the rule of spec/ it formalises; where a clause rests on a decision the spec marks as its own (D<n> of spec/92_eei_decisions.md) or on a log entry of the model, the docstring says so. -/

open Sys2Proof Sys2Proof.Machine

/-! ### Reset and stepping -/

/-- What a block instance holds when it comes into being: the address given, `0x18` when none is given, and nothing
else done or in progress (10_state.md R28, 70_reset_and_hazards.md R150; decision D17). That the host's program is empty and the transport lists
nothing is the model's choice (logs 2, 5). -/
def Obligations.ResetHoldsOnlyTheAddress : Prop :=
  State.reset.devAddr = 0x18#7 ∧ State.reset = State.resetWith 0x18#7 ∧
  ∀ a : DevAddr, (State.resetWith a).devAddr = a ∧ (State.resetWith a).responses = [] ∧
    (State.resetWith a).trace = [] ∧ (State.resetWith a).waiting = none ∧ (State.resetWith a).contention = none ∧
    (State.resetWith a).program = [] ∧ (State.resetWith a).line = [] ∧
    (State.resetWith a).sensor.model = .oracle []

/-- A step runs the operation the host's next command decodes to, on the state in which that command has been sent
(10_state.md R12, decision D18; logs 1 and 2). -/
def Obligations.StepRunsTheDecodedCommand : Prop :=
  ∀ (s : State) (cmd : CmdWord) (rest : List CmdWord) (i : Instr),
    s.contention = none → s.waiting = none → s.program = cmd :: rest → decode cmd = some i →
    step s = exec i { s with program := rest }

/-- A table word sent as the next command is what the very next step runs, whatever state it is sent in (log 18). -/
def Obligations.TableWordRunsNext : Prop :=
  ∀ (s : State) (w : Nat) (i : Instr), decodeTableWord 48 w = some i →
    step (s.withFetchWord 48 w) = exec i { s with waiting := none, contention := none }

/-- A word that no row of the opcode table matches is answered `IllegalCommand`, and nothing but the answer and the
command's leaving the program happens: no bus transaction (30_encoding.md R66; decision D5; that it is answered and not
refused, where 60_exceptions.md R138 allows both, is log 11). -/
def Obligations.IllegalWordIsAnsweredIllegalCommand : Prop :=
  ∀ (s : State) (cmd : CmdWord) (rest : List CmdWord),
    s.contention = none → s.waiting = none → s.program = cmd :: rest →
    (∀ r ∈ opcodeTable, cmd &&& r.mask ≠ r.value) →
    step s = .next { s with program := rest, responses := s.responses ++ [.error .illegalCommand] }

/-- "Nothing happens in the block between commands": with no command to take, a step changes nothing (60_exceptions.md
R135; that such a step exists is the model's choice, log 1). -/
def Obligations.NoCommandChangesNothing : Prop :=
  ∀ s : State, s.contention = none → s.waiting = none → s.program = [] → step s = .next s

/-- Where a step stops, and why: only on a state that waits for a transport call which is never answered, or that is out
of contract; every other state has a next state (20_memory.md R40, 70_reset_and_hazards.md R154, R155, R158; decision D25;
that the wait is a fault and which name a refusal has are the model's choice, logs 9 and 10). -/
def Obligations.StepStopsOnlyWhenHungOrOutOfContract : Prop :=
  (∀ s : State, s.contention = none → s.waiting = none → ∃ t, step s = .next t) ∧
  (∀ (s : State) (c : BusCall), s.contention = none → s.waiting = some c → step s = .fault .transportSilent) ∧
  (∀ (s : State) (cmd : CmdWord), s.contention = some (.secondCommand cmd) → step s = .refused .overlappingCommand) ∧
  (∀ s : State, s.contention = some .secondOwner → step s = .refused .sharedBus)

/-- Every command gets exactly one response, unless a transport call it makes is never answered; the command is used up
either way (30_encoding.md R61, 20_memory.md R51, 70_reset_and_hazards.md R158; that one step is one command, and that the wait is
a field of the state, are the model's choices, logs 1 and 9). -/
def Obligations.EveryCommandGetsOneResponse : Prop :=
  ∀ (s : State) (cmd : CmdWord) (rest : List CmdWord),
    s.contention = none → s.waiting = none → s.program = cmd :: rest →
    ∃ t, step s = .next t ∧ t.program = rest ∧
      ((t.waiting = none ∧ ∃ r, t.responses = s.responses ++ [r]) ∨
        ((∃ c, t.waiting = some c) ∧ t.responses = s.responses))

/-! ### The command and the response word -/

/-- Words of 30_encoding.md R71, one at least for every family, decode to the commands they are listed for. -/
def Obligations.WorkedEncodingsDecode : Prop :=
  decode 0x010500000000#48 = some (.rdreg 0x05#8) ∧
  decode 0x0202000001E0#48 = some (.wrreg 0x02#8 0x01E0#16) ∧
  decode 0x030000000000#48 = some .gettemp ∧
  decode 0x04000000C000#48 = some (.chkflags 0xC000#16 false) ∧
  decode 0x050D00001000#48 = some (.tosigned 4096#32 13#8) ∧
  decode 0x060DFFFFFFF0#48 = some (.tounsigned 0xFFFFFFF0#32 13#8) ∧
  decode 0x1100FFFFFFF0#48 = some (.enctemp 0xFFFFFFF0#32) ∧
  decode 0x1301A0008000#48 = some (.matchflags 0xA000#16 0x8000#16 true) ∧
  decode 0x200000000155#48 = some (.unpackcfg 0x0155#16) ∧
  decode 0x210000000003#48 = some (.dechyst 3#2) ∧
  decode 0x220000000003#48 = some (.decres 3#8)

/-- Decoding the command word of any operation, with any operands, gives that operation back (30_encoding.md R60 to R67; decisions D2, D3, D5). -/
def Obligations.DecodeOfEncodeIsTheInstruction : Prop :=
  ∀ i : Instr, decode (encode i) = some i

/-- Each legal word has one meaning, and no bit of it is lost: encoding what a word decodes to gives the word back (30_encoding.md R63, R66; decisions D2, D5). -/
def Obligations.EncodeOfDecodeIsTheWord : Prop :=
  ∀ (cmd : CmdWord) (i : Instr), decode cmd = some i → encode i = cmd

/-- The decoder and the opcode table agree on every one of the 2^48 words: it reads an operation exactly where the row of that
mnemonic matches (30_encoding.md R67; decisions D2, D3, D5). -/
def Obligations.DecoderAgreesWithOpcodeTable : Prop :=
  ∀ (cmd : CmdWord) (m : String),
    (∃ i, decode cmd = some i ∧ i.mnemonic = m) ↔
      ∃ r ∈ opcodeTable, r.mnemonic = m ∧ cmd &&& r.mask = r.value

/-- At most one row of the opcode table matches any word (30_encoding.md R67; decisions D2, D3, D5). -/
def Obligations.AtMostOneRowMatches : Prop :=
  ∀ (cmd : CmdWord) (r r' : OpcodeRow), r ∈ opcodeTable → r' ∈ opcodeTable →
    cmd &&& r.mask = r.value → cmd &&& r'.mask = r'.value → r = r'

/-- Every operand is the slice of the command word that 30_encoding.md R63 gives it, nothing scaled or shifted (R64; decisions D2, D5). -/
def Obligations.OperandsAreTheSlicesOfTheWord : Prop :=
  ∀ (cmd : CmdWord) (i : Instr), decode cmd = some i →
    match i with
    | .rdreg ptr => ptr = cmd.extractLsb' 32 8
    | .wrreg ptr data => ptr = cmd.extractLsb' 32 8 ∧ data = cmd.extractLsb' 0 16
    | .gettemp => True
    | .chkflags req strict => req = cmd.extractLsb' 0 16 ∧ strict = cmd.getLsbD 32
    | .tosigned u w => u = cmd.extractLsb' 0 32 ∧ w = cmd.extractLsb' 32 8
    | .tounsigned v w => v = cmd.extractLsb' 0 32 ∧ w = cmd.extractLsb' 32 8
    | .dectemp word => word = cmd.extractLsb' 0 16
    | .enctemp n => n = cmd.extractLsb' 0 32
    | .extflags word => word = cmd.extractLsb' 0 16
    | .matchflags word req strict =>
      word = cmd.extractLsb' 16 16 ∧ req = cmd.extractLsb' 0 16 ∧ strict = cmd.getLsbD 32
    | .unpackcfg word => word = cmd.extractLsb' 0 16
    | .dechyst code => code = cmd.extractLsb' 0 2
    | .decres byte => byte = cmd.extractLsb' 0 8

/-- The response word: status in bits 33:32 with the four codes, the result in bits 31:0, zero for the two argument
errors (30_encoding.md R61, 60_exceptions.md R131; decision D4). The bits that show a transport's error are a free value (log 4). -/
def Obligations.ResponseWordHoldsStatusAndResult : Prop :=
  ∀ r : Response,
    match r with
    | .ok v => r.word.extractLsb' 32 2 = 0#2 ∧ r.word.extractLsb' 0 32 = v
    | .error (.ioError e) => r.word.extractLsb' 32 2 = 1#2 ∧ r.word.extractLsb' 0 32 = Config.ioErrBits e
    | .error .invalidArgument => r.word.extractLsb' 32 2 = 2#2 ∧ r.word.extractLsb' 0 32 = 0#32
    | .error .illegalCommand => r.word.extractLsb' 32 2 = 3#2 ∧ r.word.extractLsb' 0 32 = 0#32

/-- The text forms of 30_encoding.md R69, R70, R71 and 95_test_vectors.md assemble to their command words (decision D22). -/
def Obligations.TextFormsAssemble : Prop :=
  Text.assembleLine "RDREG AMBIENT" = some 0x010500000000#48 ∧
  Text.assembleLine "WRREG UPPER_LIMIT, 0x01E0" = some 0x0202000001E0#48 ∧
  Text.assembleLine "CHKFLAGS CRIT|UPPER, ANY" = some 0x04000000C000#48 ∧
  Text.assembleLine "TOSIGNED 1024" = some 0x050B00000400#48 ∧
  Text.assembleLine "ENCTEMP -16 -> lo ; the lower limit" = some 0x1100FFFFFFF0#48 ∧
  Text.assembleLine "MATCHFLAGS 0xA000, CRIT, STRICT" = some 0x1301A0008000#48

/-! ### The signed helpers -/

/-- TOSIGNED (43_signed_helpers.md R110): with a width of 1 to 32, `2^w` is subtracted from the whole value exactly when bit
`w-1` is set; a result that is an `i32` is the response. A width outside 1 to 32 and a result that is no
`i32` are answered `IllegalCommand` (the spec's decision D9). Nothing but the response changes. -/
def Obligations.TosignedDecodesOrRefuses : Prop :=
  ∀ (s : State) (u : Word) (w : Byte) (r : Int),
    r = (if u.toNat / 2 ^ (w.toNat - 1) % 2 = 1 then (u.toNat : Int) - 2 ^ w.toNat else (u.toNat : Int)) →
    (1 ≤ w.toNat → w.toNat ≤ 32 → -2 ^ 31 ≤ r → r ≤ 2 ^ 31 - 1 →
      ∃ v : Word, v.toInt = r ∧
        exec (.tosigned u w) s = .next { s with responses := s.responses ++ [.ok v] }) ∧
    ((w.toNat < 1 ∨ 32 < w.toNat ∨ r < -2 ^ 31 ∨ 2 ^ 31 - 1 < r) →
      exec (.tosigned u w) s = .next { s with responses := s.responses ++ [.error .illegalCommand] })

/-- TOUNSIGNED (43_signed_helpers.md R111, the spec's decision D10): with a width of 1 to 32 and a value `w` bits of two's
complement can hold, the response is the value, plus `2^w` if it is negative; all else is answered
`IllegalCommand`. Nothing but the response changes. -/
def Obligations.TounsignedEncodesOrRefuses : Prop :=
  ∀ (s : State) (v : Word) (w : Byte),
    (1 ≤ w.toNat → w.toNat ≤ 32 → -2 ^ (w.toNat - 1) ≤ v.toInt → v.toInt ≤ 2 ^ (w.toNat - 1) - 1 →
      ∃ r : Word, (r.toNat : Int) = (if v.toInt < 0 then v.toInt + 2 ^ w.toNat else v.toInt) ∧
        exec (.tounsigned v w) s = .next { s with responses := s.responses ++ [.ok r] }) ∧
    ((w.toNat < 1 ∨ 32 < w.toNat ∨ v.toInt < -2 ^ (w.toNat - 1) ∨ 2 ^ (w.toNat - 1) - 1 < v.toInt) →
      exec (.tounsigned v w) s = .next { s with responses := s.responses ++ [.error .illegalCommand] })

/-- Round trip (43_signed_helpers.md R113 (a)): for every width 1 to 32 and every `u` below `2^w`, TOUNSIGNED of what
TOSIGNED answers is `u`. -/
def Obligations.TounsignedUndoesTosigned : Prop :=
  ∀ (s s' : State) (u : Word) (w : Byte), 1 ≤ w.toNat → w.toNat ≤ 32 → u.toNat < 2 ^ w.toNat →
    ∃ r : Word,
      exec (.tosigned u w) s = .next { s with responses := s.responses ++ [.ok r] } ∧
      exec (.tounsigned r w) s' = .next { s' with responses := s'.responses ++ [.ok u] }

/-- Round trip (43_signed_helpers.md R113 (b)): for every width 1 to 32 and every value `w` bits can hold, TOSIGNED of what
TOUNSIGNED answers is that value. -/
def Obligations.TosignedUndoesTounsigned : Prop :=
  ∀ (s s' : State) (v : Word) (w : Byte), 1 ≤ w.toNat → w.toNat ≤ 32 →
    -2 ^ (w.toNat - 1) ≤ v.toInt → v.toInt ≤ 2 ^ (w.toNat - 1) - 1 →
    ∃ r : Word,
      exec (.tounsigned v w) s = .next { s with responses := s.responses ++ [.ok r] } ∧
      exec (.tosigned r w) s' = .next { s' with responses := s'.responses ++ [.ok v] }

/-- On `u < 2^w` TOSIGNED is a bijection onto the values of `w` bits: the identity below `2^(w-1)`, the shift by `-2^w` from there
on, and onto (43_signed_helpers.md R113 (c)); and whenever it answers, its answer is congruent to `u` modulo `2^w` (R113 (d)). -/
def Obligations.TosignedIsTheTwosComplementBijection : Prop :=
  ∀ (s : State) (w : Byte), 1 ≤ w.toNat → w.toNat ≤ 32 →
    (∀ u : Word, u.toNat < 2 ^ w.toNat → ∃ r : Word,
      exec (.tosigned u w) s = .next { s with responses := s.responses ++ [.ok r] } ∧
      r.toInt = (if u.toNat < 2 ^ (w.toNat - 1) then (u.toNat : Int) else (u.toNat : Int) - 2 ^ w.toNat)) ∧
    (∀ n : Int, -2 ^ (w.toNat - 1) ≤ n → n ≤ 2 ^ (w.toNat - 1) - 1 →
      ∃ u r : Word, u.toNat < 2 ^ w.toNat ∧ r.toInt = n ∧
        exec (.tosigned u w) s = .next { s with responses := s.responses ++ [.ok r] }) ∧
    (∀ u r : Word, exec (.tosigned u w) s = .next { s with responses := s.responses ++ [.ok r] } →
      (r.toInt - (u.toNat : Int)) % 2 ^ w.toNat = 0)

/-- The temperature operations are the helpers at width 13 (43_signed_helpers.md R113 (e)): DECTEMP of a word is TOSIGNED of the masked
word, ENCTEMP is TOUNSIGNED, on every operand, refusals included. -/
def Obligations.TemperatureCodecIsWidthThirteen : Prop :=
  ∀ (s : State) (word : Half) (n : Word),
    exec (.dectemp word) s = exec (.tosigned ((word &&& 0x1FFF#16).setWidth 32) 13#8) s ∧
    exec (.enctemp n) s = exec (.tounsigned n 13#8) s

/-! ### Temperature -/

/-- DECTEMP (41_temperature.md R91): mask to 13 bits, subtract 8192 exactly when bit 12 of the masked field is set; the response
is that integer, the sign extension of bits 12:0; it is what TOSIGNED of the masked word at width 13 answers; every word decodes, and nothing but the
response changes. -/
def Obligations.DectempDecodesEveryWord : Prop :=
  ∀ (s : State) (word : Half),
    exec (.dectemp word) s =
      .next { s with responses := s.responses ++ [.ok ((word.extractLsb' 0 13).signExtend 32)] } ∧
    ((word.extractLsb' 0 13).signExtend 32).toInt =
      (if word.toNat % 8192 < 4096 then ((word.toNat % 8192 : Nat) : Int)
        else ((word.toNat % 8192 : Nat) : Int) - 8192) ∧
    exec (.dectemp word) s = exec (.tosigned ((word &&& 0x1FFF#16).setWidth 32) 13#8) s

/-- ENCTEMP (41_temperature.md R92, the spec's decision D11): a count of -4096 to 4095 gives the word whose bits 12:0 are `n mod 8192` and
whose bits 15:13 are zero; any other count is answered `IllegalCommand`. Nothing but the response changes. -/
def Obligations.EnctempEncodesOrRefuses : Prop :=
  ∀ (s : State) (n : Word),
    (-4096 ≤ n.toInt → n.toInt ≤ 4095 → ∃ r : Word, (r.toNat : Int) = n.toInt % 8192 ∧
      exec (.enctemp n) s = .next { s with responses := s.responses ++ [.ok r] }) ∧
    ((n.toInt < -4096 ∨ 4095 < n.toInt) →
      exec (.enctemp n) s = .next { s with responses := s.responses ++ [.error .illegalCommand] })

/-- The laws of 41_temperature.md R92 (decision D11): DECTEMP undoes ENCTEMP on every count in range, and ENCTEMP of a decoded
word is the word without its flag bits. -/
def Obligations.TemperatureCodecRoundTrips : Prop :=
  (∀ (s s' : State) (n : Word), -4096 ≤ n.toInt → n.toInt ≤ 4095 → ∃ r : Half,
    exec (.enctemp n) s = .next { s with responses := s.responses ++ [.ok (r.setWidth 32)] } ∧
    exec (.dectemp r) s' = .next { s' with responses := s'.responses ++ [.ok n] }) ∧
  (∀ (s s' : State) (word : Half), ∃ n : Word,
    exec (.dectemp word) s = .next { s with responses := s.responses ++ [.ok n] } ∧
    exec (.enctemp n) s' =
      .next { s' with responses := s'.responses ++ [.ok ((word &&& 0x1FFF#16).setWidth 32)] })

/-- The flag bits never change a decoded count (41_temperature.md R90 (a)), and the temperature it stands for is `n / 16` degrees,
from -256 to 255.9375 (R93, decision D21; 10_state.md R19). -/
def Obligations.TemperatureIgnoresFlagsAndStaysInRange : Prop :=
  ∀ (word flags : Half),
    (∀ s : State, exec (.dectemp (word ||| (flags &&& 0xE000#16))) s = exec (.dectemp word) s) ∧
    celsius (decTemp word) * 16 = decTemp word ∧
    -256 ≤ celsius (decTemp word) ∧ celsius (decTemp word) ≤ 4095 / 16

/-- GETTEMP (41_temperature.md R90): the select write of pointer `0x05`, then the read of two bytes; the response is the sign extension of
bits 12:0 of the word received; the first call that fails ends it with that call's error, and a failed
select write is followed by no read (the spec's decision D14). -/
def Obligations.GettempReadsAndDecodes : Prop :=
  ∀ (s s1 : State), s1 = s.afterCall (.write s.devAddr [0x05#8]) →
    (∀ e, s.busAnswer (.write s.devAddr [0x05#8]) = .fail e →
      exec .gettemp s = .next { s1 with responses := s.responses ++ [.error (.ioError e)] }) ∧
    (s.busAnswer (.write s.devAddr [0x05#8]) = .ok [] → s1.sensor.ptr = 0x05#8 ∧ ∀ s2, s2 = s1.afterCall (.read s.devAddr 2) →
      (∀ e, s1.busAnswer (.read s.devAddr 2) = .fail e →
        exec .gettemp s = .next { s2 with responses := s.responses ++ [.error (.ioError e)] }) ∧
      (∀ b0 b1, s1.busAnswer (.read s.devAddr 2) = .ok [b0, b1] →
        exec .gettemp s = .next { s2 with
          responses := s.responses ++ [.ok (((b0 ++ b1).extractLsb' 0 13).signExtend 32)] }))

/-- GETTEMP is exactly `RDREG AMBIENT` followed by DECTEMP of its result, and its bus traffic is that of the RDREG
(41_temperature.md R90 (c)): same state but for the last response, same error, same wait. Both run from one state, so both meet the
same listed outcomes and words and the same free values; that free values depend on the draw alone is the model's choice (log 13). -/
def Obligations.GettempIsRdregThenDectemp : Prop :=
  ∀ s : State, ∃ t t' : State,
    exec (.rdreg 0x05#8) s = .next t ∧ exec .gettemp s = .next t' ∧
    t' = { t with responses := t'.responses } ∧
    ((t.responses = s.responses ∧ t'.responses = s.responses ∧ t.waiting ≠ none) ∨
      (∃ e, t.responses = s.responses ++ [.error (.ioError e)] ∧ t'.responses = t.responses) ∨
      (∃ (word : Half) (n : Word), t.responses = s.responses ++ [.ok (word.setWidth 32)] ∧
        t'.responses = s.responses ++ [.ok n] ∧
        exec (.dectemp word) s = .next { s with responses := s.responses ++ [.ok n] }))

/-! ### Alert flags -/

/-- EXTFLAGS (42_alert_flags.md R101): bits 15:13 stay at their positions, bits 12:0 never reach the result, and the flags with the
masked-out field give the word back; every word is accepted, and nothing but the response changes. -/
def Obligations.ExtflagsKeepsOnlyTheFlags : Prop :=
  ∀ (s : State) (word : Half), ∃ f : Half,
    exec (.extflags word) s = .next { s with responses := s.responses ++ [.ok (f.setWidth 32)] } ∧
    f = word &&& 0xE000#16 ∧ f ||| (word &&& 0x1FFF#16) = word ∧
    (∀ k < 16, f.getLsbD k = (decide (13 ≤ k) && word.getLsbD k))

/-- MATCHFLAGS (42_alert_flags.md R102): strict answers 1 exactly when every bit requested is a flag that is set, non-strict exactly
when some bit requested is; else 0. Every word and request is accepted (that request bits outside 15:13 are
not masked is the spec's decision D20), and nothing but the response changes. -/
def Obligations.MatchflagsComparesAllOfOrAnyOf : Prop :=
  ∀ (s : State) (word req : Half),
    ((∀ k < 16, req.getLsbD k = true → 13 ≤ k ∧ word.getLsbD k = true) →
      exec (.matchflags word req true) s = .next { s with responses := s.responses ++ [.ok 1#32] }) ∧
    ((∃ k < 16, req.getLsbD k = true ∧ ¬ (13 ≤ k ∧ word.getLsbD k = true)) →
      exec (.matchflags word req true) s = .next { s with responses := s.responses ++ [.ok 0#32] }) ∧
    ((∃ k < 16, req.getLsbD k = true ∧ 13 ≤ k ∧ word.getLsbD k = true) →
      exec (.matchflags word req false) s = .next { s with responses := s.responses ++ [.ok 1#32] }) ∧
    ((∀ k < 16, req.getLsbD k = true → ¬ (13 ≤ k ∧ word.getLsbD k = true)) →
      exec (.matchflags word req false) s = .next { s with responses := s.responses ++ [.ok 0#32] })

/-- The corner cases of 42_alert_flags.md R102: an empty request (b), a request outside the flags (c, decision D20), the field bits of
the word (d), a single flag (e), and strict implying non-strict (f). -/
def Obligations.MatchflagsCornerCases : Prop :=
  ∀ (s : State) (word req : Half),
    exec (.matchflags word 0#16 true) s = .next { s with responses := s.responses ++ [.ok 1#32] } ∧
    exec (.matchflags word 0#16 false) s = .next { s with responses := s.responses ++ [.ok 0#32] } ∧
    (req &&& 0x1FFF#16 ≠ 0#16 →
      exec (.matchflags word req true) s = .next { s with responses := s.responses ++ [.ok 0#32] }) ∧
    exec (.matchflags word req false) s = exec (.matchflags word (req &&& 0xE000#16) false) s ∧
    (∀ strict, exec (.matchflags word req strict) s = exec (.matchflags (word &&& 0xE000#16) req strict) s) ∧
    (req = 0x8000#16 ∨ req = 0x4000#16 ∨ req = 0x2000#16 →
      exec (.matchflags word req true) s = exec (.matchflags word req false) s) ∧
    (req ≠ 0#16 →
      exec (.matchflags word req true) s = .next { s with responses := s.responses ++ [.ok 1#32] } →
      exec (.matchflags word req false) s = .next { s with responses := s.responses ++ [.ok 1#32] })

/-- CHKFLAGS (42_alert_flags.md R100): the select write of pointer `0x05`, the read of two bytes, and the comparison of the
flags of the word received; the first call that fails ends it with that call's error (decisions D14, D20). Every request is accepted. -/
def Obligations.ChkflagsReadsAndCompares : Prop :=
  ∀ (s s1 : State) (req : Half) (strict : Bool), s1 = s.afterCall (.write s.devAddr [0x05#8]) →
    (∀ e, s.busAnswer (.write s.devAddr [0x05#8]) = .fail e →
      exec (.chkflags req strict) s = .next { s1 with responses := s.responses ++ [.error (.ioError e)] }) ∧
    (s.busAnswer (.write s.devAddr [0x05#8]) = .ok [] → s1.sensor.ptr = 0x05#8 ∧ ∀ s2, s2 = s1.afterCall (.read s.devAddr 2) →
      (∀ e, s1.busAnswer (.read s.devAddr 2) = .fail e →
        exec (.chkflags req strict) s = .next { s2 with responses := s.responses ++ [.error (.ioError e)] }) ∧
      (∀ b0 b1, s1.busAnswer (.read s.devAddr 2) = .ok [b0, b1] → ∀ a, a = (b0 ++ b1) &&& 0xE000#16 &&& req →
        exec (.chkflags req strict) s = .next { s2 with responses := s.responses ++
          [.ok (if (strict = true ∧ a = req) ∨ (strict = false ∧ a ≠ 0#16) then 1#32 else 0#32)] }))

/-- CHKFLAGS is exactly `RDREG AMBIENT` followed by MATCHFLAGS of its result (42_alert_flags.md R100): same state but for the last
response, same error, same wait. Both run from one state, so both meet the same listed outcomes and words and the same free values;
that free values depend on the draw alone is the model's choice (log 13). -/
def Obligations.ChkflagsIsRdregThenMatchflags : Prop :=
  ∀ (s : State) (req : Half) (strict : Bool), ∃ t t' : State,
    exec (.rdreg 0x05#8) s = .next t ∧ exec (.chkflags req strict) s = .next t' ∧
    t' = { t with responses := t'.responses } ∧
    ((t.responses = s.responses ∧ t'.responses = s.responses ∧ t.waiting ≠ none) ∨
      (∃ e, t.responses = s.responses ++ [.error (.ioError e)] ∧ t'.responses = t.responses) ∨
      (∃ (word : Half) (r : Word), t.responses = s.responses ++ [.ok (word.setWidth 32)] ∧
        t'.responses = s.responses ++ [.ok r] ∧
        exec (.matchflags word req strict) s = .next { s with responses := s.responses ++ [.ok r] }))

/-! ### Configuration and resolution -/

/-- UNPACKCFG (44_config_unpack.md R120; positions and result layout are the spec's decisions D6, D23): the result's fields
are the word's, each at its own bits; bits 31:11 are zero and bits 15:11 of the word do not matter; every word unpacks, and nothing
but the response changes. -/
def Obligations.UnpackcfgKeepsEveryFieldInPlace : Prop :=
  ∀ (s : State) (word : Half), ∃ r : Word,
    exec (.unpackcfg word) s = .next { s with responses := s.responses ++ [.ok r] } ∧
    r.extractLsb' 11 21 = 0#21 ∧
    ConfigFlags.ofWord (r.setWidth 16) = ConfigFlags.ofWord word ∧
    ConfigFlags.ofWord word =
      { hyst := word.extractLsb' 9 2, shdn := word.getLsbD 8, critLock := word.getLsbD 7,
        winLock := word.getLsbD 6, intClear := word.getLsbD 5, alertStat := word.getLsbD 4,
        alertEn := word.getLsbD 3, alertSel := word.getLsbD 2, alertPol := word.getLsbD 1,
        alertMode := word.getLsbD 0 } ∧
    (∀ high : Half, exec (.unpackcfg (word ||| (high &&& 0xF800#16))) s = exec (.unpackcfg word) s)

/-- DECHYST (44_config_unpack.md R121; the order of the codes is the spec's decision D7): 0, 24, 48, 96 counts; `12 * 2^code` from code 1 on. -/
def Obligations.DechystAnswersTheHysteresis : Prop :=
  ∀ (s : State) (code : BitVec 2), ∃ r : Word,
    exec (.dechyst code) s = .next { s with responses := s.responses ++ [.ok r] } ∧
    r.toNat = (if code = 0#2 then 0 else 12 * 2 ^ code.toNat) ∧
    celsius r.toNat = (if code = 0#2 then 0 else if code = 1#2 then 3 / 2 else if code = 2#2 then 3 else 6)

/-- DECRES (44_config_unpack.md R122; the order of the codes is the spec's decision D8): the step is `2^(3 - RES)` counts, and bits 7:2 of the
byte do not matter. -/
def Obligations.DecresAnswersTheStep : Prop :=
  ∀ (s : State) (byte : Byte), ∃ r : Word,
    exec (.decres byte) s = .next { s with responses := s.responses ++ [.ok r] } ∧
    r.toNat = 2 ^ (3 - byte.toNat % 4) ∧
    (∀ high : Byte, exec (.decres (byte ||| (high &&& 0xFC#8))) s = exec (.decres byte) s)

/-! ### Register access -/

/-- RDREG (40_register_access.md R80, 20_memory.md R43): a pointer outside 1 to 8 is answered `InvalidArgument` with no bus
transaction; else the select write, then the read of two bytes (one for pointer 8); the response is the raw value, the first byte
received the more significant; the select write leaves the sensor's pointer at the register; the first call that fails ends it with that call's error (that
a failed select write is followed by no read is the spec's decision D14). -/
def Obligations.RdregReadsTheRegister : Prop :=
  ∀ (s : State) (ptr : Byte),
    ((ptr.toNat < 0x01 ∨ 0x08 < ptr.toNat) →
      exec (.rdreg ptr) s = .next { s with responses := s.responses ++ [.error .invalidArgument] }) ∧
    (0x01 ≤ ptr.toNat → ptr.toNat ≤ 0x08 → ∀ s1, s1 = s.afterCall (.write s.devAddr [ptr]) →
      (∀ e, s.busAnswer (.write s.devAddr [ptr]) = .fail e →
        exec (.rdreg ptr) s = .next { s1 with responses := s.responses ++ [.error (.ioError e)] }) ∧
      (s.busAnswer (.write s.devAddr [ptr]) = .ok [] → s1.sensor.ptr = ptr ∧
        ∀ c s2, c = BusCall.read s.devAddr (if ptr.toNat = 0x08 then 1 else 2) → s2 = s1.afterCall c →
        (∀ e, s1.busAnswer c = .fail e →
          exec (.rdreg ptr) s = .next { s2 with responses := s.responses ++ [.error (.ioError e)] }) ∧
        (∀ b0 b1, ptr.toNat ≠ 0x08 → s1.busAnswer c = .ok [b0, b1] →
          exec (.rdreg ptr) s = .next { s2 with responses := s.responses ++ [.ok ((b0 ++ b1).setWidth 32)] }) ∧
        (∀ b, ptr.toNat = 0x08 → s1.busAnswer c = .ok [b] →
          exec (.rdreg ptr) s = .next { s2 with responses := s.responses ++ [.ok (b.setWidth 32)] })))

/-- RDREG on a transport that carries both calls and a sensor about to show the word `x` (10_state.md R27, 20_memory.md R45): it answers
`x`, or the low byte of `x` for the byte register, and the bus trace grows by exactly the select write and the read, each with its
answer; a read after it is shown the next word. The words a sensor is about to show are an input of the model (log 6). -/
def Obligations.RdregAnswersTheWordShown : Prop :=
  ∀ (s : State) (ptr : Byte) (x : Half) (rest : List Half) (later : List Delivery),
    0x01 ≤ ptr.toNat → ptr.toNat ≤ 0x08 → s.line = .carried :: .carried :: later →
    s.sensor.model = .oracle (x :: rest) →
    ∃ t, exec (.rdreg ptr) s = .next t ∧ t.line = later ∧ t.sensor.model = .oracle rest ∧
      t.waiting = s.waiting ∧
      (ptr.toNat ≠ 0x08 →
        t.responses = s.responses ++ [.ok (x.setWidth 32)] ∧
        t.trace = s.trace ++ [⟨.write s.devAddr [ptr], .ok []⟩,
          ⟨.read s.devAddr 2, .ok [x.extractLsb' 8 8, x.extractLsb' 0 8]⟩]) ∧
      (ptr.toNat = 0x08 →
        t.responses = s.responses ++ [.ok ((x.extractLsb' 0 8).setWidth 32)] ∧
        t.trace = s.trace ++ [⟨.write s.devAddr [ptr], .ok []⟩,
          ⟨.read s.devAddr 1, .ok [x.extractLsb' 0 8]⟩])

/-- WRREG (40_register_access.md R81, 20_memory.md R44, 10_state.md R26): a pointer outside 1 to 4, the read-only registers and the Resolution
register among them, is answered `InvalidArgument` with no bus transaction; else one transaction carries the pointer and
the data as given (most significant byte first: the spec's decision D13), answered 0, or with the transport's error. -/
def Obligations.WrregWritesTheRegister : Prop :=
  ∀ (s : State) (ptr : Byte) (data : Half),
    ((ptr.toNat < 0x01 ∨ 0x04 < ptr.toNat) →
      exec (.wrreg ptr data) s = .next { s with responses := s.responses ++ [.error .invalidArgument] }) ∧
    (0x01 ≤ ptr.toNat → ptr.toNat ≤ 0x04 →
      ∀ c s1, c = BusCall.write s.devAddr [ptr, data.extractLsb' 8 8, data.extractLsb' 0 8] → s1 = s.afterCall c →
      (∀ e, s.busAnswer c = .fail e →
        exec (.wrreg ptr data) s = .next { s1 with responses := s.responses ++ [.error (.ioError e)] }) ∧
      (s.busAnswer c = .ok [] →
        exec (.wrreg ptr data) s = .next { s1 with responses := s.responses ++ [.ok 0#32] }))

/-! ### Transport and sensor -/

/-- A transport call: its answer is the transport's failure unchanged, no answer, or, where it is carried to a sensor under no
law, success, with exactly the bytes asked for where one or two are; it is recorded with its answer; only a call that is
never answered leaves the block waiting, for that call (20_memory.md R40, R41, 70_reset_and_hazards.md R158, R159; log 5). -/
def Obligations.TransportCallIsAnsweredAndRecorded : Prop :=
  ∀ (s : State) (c : BusCall),
    (∀ e, s.delivery = .failed e → s.busAnswer c = .fail e) ∧
    (s.delivery = .silent → s.busAnswer c = .silent) ∧
    (∀ reads, s.delivery = .carried → s.sensor.model = .oracle reads →
      (∀ a bytes, c = .write a bytes → s.busAnswer c = .ok []) ∧
      (∀ a n, c = .read a n → n = 1 ∨ n = 2 → ∃ bytes, s.busAnswer c = .ok bytes ∧ bytes.length = n)) ∧
    (s.afterCall c).trace = s.trace ++ [⟨c, s.busAnswer c⟩] ∧
    (s.busAnswer c = .silent → (s.afterCall c).waiting = some c) ∧
    (s.busAnswer c ≠ .silent → (s.afterCall c).waiting = s.waiting) ∧
    (s.afterCall c).responses = s.responses ∧ (s.afterCall c).devAddr = s.devAddr ∧
    (s.afterCall c).program = s.program

/-- `SimSensor` answers a call to another device address with failure, and no call that is not carried, or goes to another
address, changes it (70_reset_and_hazards.md R152, decision D17; which error it answers is a free value, log 8; that a call which
fails, or is never answered, leaves it as it was is the model's choice, log 12). -/
def Obligations.SimSensorIsUntouchedByFailedCalls : Prop :=
  ∀ (s : State) (c : BusCall) (amb : List Half) (addr : DevAddr), s.sensor.model = .sim amb addr →
    (s.delivery ≠ .carried → (s.afterCall c).sensor = s.sensor) ∧
    (s.delivery = .carried → c.addr ≠ addr → (∃ e, s.busAnswer c = .fail e) ∧ (s.afterCall c).sensor = s.sensor)

/-- Under `SimSensor` at the block's device address, with a transport that carries the calls, RDREG of a writable register answers
what WRREG wrote to it; the other registers keep their values (70_reset_and_hazards.md R152, decision D17: a sensor for tests only). -/
def Obligations.SimSensorReadsBackAWrite : Prop :=
  ∀ (s : State) (ptr : Byte) (data : Half) (amb : List Half) (later : List Delivery),
    0x01 ≤ ptr.toNat → ptr.toNat ≤ 0x04 → s.sensor.model = .sim amb s.devAddr →
    s.line = .carried :: .carried :: .carried :: later →
    ∃ t t', exec (.wrreg ptr data) s = .next t ∧ exec (.rdreg ptr) t = .next t' ∧
      t.responses = s.responses ++ [.ok 0#32] ∧
      t'.responses = s.responses ++ [.ok 0#32, .ok (data.setWidth 32)] ∧
      t.sensor.ptr = ptr ∧ t.sensor.reg s.draws ptr = data ∧
      (∀ q : Byte, 0x01 ≤ q.toNat → q.toNat ≤ 0x08 → q ≠ ptr → t.sensor.reg s.draws q = s.sensor.reg s.draws q) ∧
      t'.sensor = t.sensor

/-- Under `SimSensor` successive ambient reads take successive samples, and the last one repeats when the list is used up
(70_reset_and_hazards.md R152, decision D17): GETTEMP answers the decoded sample, and no other register changes. The model's
choices: a sample taken is put into the ambient register, and a list empty from the start shows that register (log 8); the two
calls advance the draw counter by two (log 13). -/
def Obligations.SimSensorShowsSuccessiveSamples : Prop :=
  ∀ (s : State) (later : List Delivery),
    s.line = .carried :: .carried :: later →
    (∀ x rest, s.sensor.model = .sim (x :: rest) s.devAddr →
      exec .gettemp s = .next { s with
        line := later, draws := s.draws + 2,
        trace := s.trace ++ [⟨.write s.devAddr [0x05#8], .ok []⟩,
          ⟨.read s.devAddr 2, .ok [x.extractLsb' 8 8, x.extractLsb' 0 8]⟩],
        sensor := { s.sensor with ptr := 0x05#8, ambient := x, model := .sim rest s.devAddr },
        responses := s.responses ++ [.ok ((x.extractLsb' 0 13).signExtend 32)] }) ∧
    (∀ x, s.sensor.model = .sim [] s.devAddr → s.sensor.ambient = x →
      exec .gettemp s = .next { s with
        line := later, draws := s.draws + 2,
        trace := s.trace ++ [⟨.write s.devAddr [0x05#8], .ok []⟩,
          ⟨.read s.devAddr 2, .ok [x.extractLsb' 8 8, x.extractLsb' 0 8]⟩],
        sensor := { s.sensor with ptr := 0x05#8 },
        responses := s.responses ++ [.ok ((x.extractLsb' 0 13).signExtend 32)] })

/-- A transport call that is never answered: the command that makes it ends without a response, the block waits for that
call, and no later step of the block answers another command (70_reset_and_hazards.md R158, 20_memory.md R40). Stated for the select write
and the read of the three reading operations, and for the one transaction of WRREG. That the wait is a state, and the later step
a fault, is the model's choice (log 9). -/
def Obligations.UnansweredCallHangsTheBlock : Prop :=
  ∀ (s : State), s.contention = none →
    (∀ (i : Instr) (ptr : Byte),
      (i = .rdreg ptr ∧ 0x01 ≤ ptr.toNat ∧ ptr.toNat ≤ 0x08) ∨
        (ptr = 0x05#8 ∧ (i = .gettemp ∨ ∃ req strict, i = .chkflags req strict)) →
      ∀ c1 c2 s1, c1 = BusCall.write s.devAddr [ptr] →
        c2 = BusCall.read s.devAddr (if ptr.toNat = 0x08 then 1 else 2) → s1 = s.afterCall c1 →
        (s.busAnswer c1 = .silent →
          exec i s = .next s1 ∧ s1.waiting = some c1 ∧ s1.responses = s.responses ∧
            step s1 = .fault .transportSilent) ∧
        (s.busAnswer c1 = .ok [] → s1.busAnswer c2 = .silent →
          exec i s = .next (s1.afterCall c2) ∧ (s1.afterCall c2).waiting = some c2 ∧
            (s1.afterCall c2).responses = s.responses ∧ step (s1.afterCall c2) = .fault .transportSilent)) ∧
    (∀ (ptr : Byte) (data : Half) (c : BusCall), 0x01 ≤ ptr.toNat → ptr.toNat ≤ 0x04 →
      c = .write s.devAddr [ptr, data.extractLsb' 8 8, data.extractLsb' 0 8] → s.busAnswer c = .silent →
      exec (.wrreg ptr data) s = .next (s.afterCall c) ∧ (s.afterCall c).waiting = some c ∧
        (s.afterCall c).responses = s.responses ∧ step (s.afterCall c) = .fault .transportSilent)

/-! ### Errors -/

/-- `InvalidArgument` is raised exactly by the pointer check of RDREG and WRREG and by nothing else, before any bus activity: an
operation that ends with it has made no transport call (60_exceptions.md R133). -/
def Obligations.InvalidArgumentComesOnlyFromPointerChecks : Prop :=
  ∀ (i : Instr) (s t : State), exec i s = .next t →
    (t.responses = s.responses ++ [.error .invalidArgument] ↔
      (∃ ptr, i = .rdreg ptr ∧ (ptr.toNat < 0x01 ∨ 0x08 < ptr.toNat)) ∨
        (∃ ptr data, i = .wrreg ptr data ∧ (ptr.toNat < 0x01 ∨ 0x04 < ptr.toNat))) ∧
    (t.responses = s.responses ++ [.error .invalidArgument] →
      t = { s with responses := s.responses ++ [.error .invalidArgument] })

/-- `IllegalCommand` comes from the decoder, and from TOSIGNED, TOUNSIGNED and ENCTEMP only, and an operation that ends with it
has made no transport call (60_exceptions.md R138; decisions D5, D9, D10, D11; that it is an answer and not a refusal is log 11). -/
def Obligations.IllegalCommandMakesNoTransportCall : Prop :=
  ∀ (s t : State) (cmd : CmdWord) (rest : List CmdWord),
    s.contention = none → s.waiting = none → s.program = cmd :: rest → step s = .next t →
    t.responses = s.responses ++ [.error .illegalCommand] →
    t = { s with program := rest, responses := s.responses ++ [.error .illegalCommand] } ∧
    (decode cmd = none ∨ (∃ u w, decode cmd = some (.tosigned u w)) ∨
      (∃ v w, decode cmd = some (.tounsigned v w)) ∨ (∃ n, decode cmd = some (.enctemp n)))

/-- `IoError` is raised exactly when a transport call the operation makes answers failure; it carries that call's value unchanged,
and that call is the last one made: no retry and no clean-up (60_exceptions.md R132). -/
def Obligations.IoErrorExactlyWhenACallFails : Prop :=
  ∀ (i : Instr) (s t : State), exec i s = .next t →
    ∃ events, t.trace = s.trace ++ events ∧
      (∀ e, t.responses = s.responses ++ [.error (.ioError e)] ↔
        ∃ before c, events = before ++ [⟨c, .fail e⟩]) ∧
      (∀ before x after, events = before ++ x :: after → after ≠ [] → x.answer.isOk = true)

/-- The block keeps no error state: what was answered and done before does not change what a command does. On a state with any
other responses and any other trace behind it, an operation makes the same calls and gives the same responses (60_exceptions.md R137, 10_state.md R10). The two states agree in all
else, so the calls meet the same outcomes and words; where these are free values, that they depend on the draw alone is the
model's choice (log 13). -/
def Obligations.HistoryChangesNothing : Prop :=
  ∀ (i : Instr) (s : State), ∃ (t : State) (given : List Response) (made : List BusEvent),
    exec i s = .next t ∧ t.responses = s.responses ++ given ∧ t.trace = s.trace ++ made ∧
    ∀ (rs : List Response) (tr : List BusEvent),
      exec i { s with responses := rs, trace := tr } =
        .next { t with responses := rs ++ given, trace := tr ++ made }

/-! ### The whole machine -/

/-- The pure operations are combinational: one response, the same whatever the state, and nothing else changes (00_scope.md
R5, decision D1). -/
def Obligations.PureOperationsOnlyRespond : Prop :=
  ∀ i : Instr,
    (match i with
      | .rdreg _ => False
      | .wrreg _ _ => False
      | .gettemp => False
      | .chkflags _ _ => False
      | _ => True) →
    ∃ r : Response, (∀ e, r ≠ .error (.ioError e)) ∧ r ≠ .error .invalidArgument ∧
      ∀ s : State, exec i s = .next { s with responses := s.responses ++ [r] }

/-- What every operation leaves alone: the device address, the host's other commands, the contract; responses and trace only
grow, by at most one response and two transactions; and WRREG makes at most one transaction (10_state.md R10, 20_memory.md R43, R44, R51). The model's own fields, and so its
choices: each transaction uses up one listed outcome (log 5) and advances the draw counter by one (log 13), and the mark of a
broken contract is kept (log 10). -/
def Obligations.EveryOperationKeepsItsFrame : Prop :=
  ∀ (i : Instr) (s : State), ∃ t, exec i s = .next t ∧
    t.devAddr = s.devAddr ∧ t.program = s.program ∧ t.contention = s.contention ∧
    (∃ given, t.responses = s.responses ++ given ∧ given.length ≤ 1) ∧
    (∃ made, t.trace = s.trace ++ made ∧ made.length ≤ 2 ∧ t.draws = s.draws + made.length ∧
      t.line = s.line.drop made.length ∧ (made = [] → t.sensor = s.sensor ∧ t.waiting = s.waiting) ∧
      (∀ ptr data, i = .wrreg ptr data → made.length ≤ 1))

/-- What one step puts on the bus (20_memory.md R47, 10_state.md R26): nothing; or the select write of one register that exists, alone or
followed by the read of that register's whole width, which brings exactly that many bytes if it succeeds; or the write of one register 1 to 4, pointer and two data bytes; all at the
block's own device address. No step moves part of a register or more than one, and none can write the Resolution register. -/
def Obligations.OneStepMovesOneWholeRegister : Prop :=
  ∀ s t : State, step s = .next t → ∃ made, t.trace = s.trace ++ made ∧
    (made = [] ∨
      (∃ (ptr : Byte) (a : BusAnswer), 0x01 ≤ ptr.toNat ∧ ptr.toNat ≤ 0x08 ∧
        made = [⟨.write s.devAddr [ptr], a⟩]) ∨
      (∃ (ptr : Byte) (a : BusAnswer), 0x01 ≤ ptr.toNat ∧ ptr.toNat ≤ 0x08 ∧
        made = [⟨.write s.devAddr [ptr], .ok []⟩, ⟨.read s.devAddr (if ptr.toNat = 0x08 then 1 else 2), a⟩] ∧
        (∀ bytes, a = .ok bytes → bytes.length = if ptr.toNat = 0x08 then 1 else 2)) ∨
      (∃ (ptr hi lo : Byte) (a : BusAnswer), 0x01 ≤ ptr.toNat ∧ ptr.toNat ≤ 0x04 ∧
        made = [⟨.write s.devAddr [ptr, hi, lo], a⟩]))

/-- Two runs of one command, from any two states with one device address, make the same transport calls as long as the
transport and the sensor answer alike, whatever commands came before; where all answers agree, so do the responses; and the one
stored item, the device address (`0x18` by default), is written by no command (10_state.md R10). -/
def Obligations.SameCommandSameTransactions : Prop :=
  State.reset.devAddr = 0x18#7 ∧
  ∀ (i : Instr) (s s' t t' : State), s.devAddr = s'.devAddr → exec i s = .next t → exec i s' = .next t' →
    t.devAddr = s.devAddr ∧
    ∃ (made made' : List BusEvent) (given given' : List Response),
      t.trace = s.trace ++ made ∧ t'.trace = s'.trace ++ made' ∧
      t.responses = s.responses ++ given ∧ t'.responses = s'.responses ++ given' ∧
      (∀ k, (made.take k).map BusEvent.answer = (made'.take k).map BusEvent.answer →
        (made.take (k + 1)).map BusEvent.call = (made'.take (k + 1)).map BusEvent.call) ∧
      (made.map BusEvent.answer = made'.map BusEvent.answer → made = made' ∧ given = given')

/-- The bus protocol and the meaning of a wait (log 9) hold at reset (70_reset_and_hazards.md R150: no transaction is made). -/
def Obligations.ProtocolHoldsAtReset : Prop :=
  ∀ a : DevAddr, (State.resetWith a).protocolOk = true

/-- Every step keeps the bus protocol (20_memory.md R43, R44, R47, R50, 70_reset_and_hazards.md R153): from every state whose trace is a
sequence of register writes, failed select writes, and select writes each followed at once by the read of the register's width,
all at the block's address with admitted pointers, a step leads to such a state; and a state that waits waits for the last call made (the wait is the model's form, log 9). -/
def Obligations.EveryStepKeepsTheBusProtocol : Prop :=
  ∀ s t : State, s.protocolOk = true → step s = .next t → t.protocolOk = true

/-- A read of a sensor under no law shows the next listed word, or a free value where none is listed, as two bytes or as its low
byte. What it leaves in the sensor is the same for any two reads at one draw, whatever words they showed and whatever the registers
held before. That equality is the MODEL'S CHOICE and not a rule of the spec: its free values depend on the draw alone (logs 6 and
13, the list of words and the draw counter being the model's too). 20_memory.md R49 only asks that neither way be assumed of what a
read clears; the equality shows that the word shown is not carried over into the registers. -/
def Obligations.OracleReadDeterminesNothingAfterwards : Prop :=
  ∀ (s s' : State) (a : DevAddr) (n : Nat) (reads reads' : List Half),
    s.delivery = .carried → s'.delivery = .carried → s.draws = s'.draws →
    s.sensor.model = .oracle reads → s'.sensor.model = .oracle reads' → reads.tail = reads'.tail →
    (s.afterCall (.read a n)).sensor = (s'.afterCall (.read a n)).sensor ∧
    ∀ w, w = reads.head?.getD (Config.shownWord s.draws s.sensor.ptr) →
      s.busAnswer (.read a 2) = .ok [w.extractLsb' 8 8, w.extractLsb' 0 8] ∧
      s.busAnswer (.read a 1) = .ok [w.extractLsb' 0 8]
end

