-- ==== Sys2Proof/Laws/Decode.lean ====
section
/-! SUPPORT. Laws of the command word: concatenation and slicing undo each other, reserved bits, the strict bit, and what decoding answers for each operation code. -/

namespace Sys2Proof

/-! ### Concatenation -/

/-- The low part of a concatenation. -/
theorem append_low {n m : Nat} (x : BitVec n) (y : BitVec m) : (x ++ y).extractLsb' 0 m = y := by
  apply BitVec.eq_of_getLsbD_eq
  intro i hi
  simp only [BitVec.getLsbD_append, BitVec.getLsbD_extractLsb']
  rw [if_pos (by omega)]
  simp [hi]

/-- The high part of a concatenation. -/
theorem append_high {n m : Nat} (x : BitVec n) (y : BitVec m) : (x ++ y).extractLsb' m n = x := by
  apply BitVec.eq_of_getLsbD_eq
  intro i hi
  simp only [BitVec.getLsbD_append, BitVec.getLsbD_extractLsb']
  rw [if_neg (by omega)]
  simp [hi]

/-- A concatenation is zero exactly when both parts are. -/
theorem append_eq_zero {n m : Nat} (x : BitVec n) (y : BitVec m) :
    x ++ y = 0#(n + m) ↔ x = 0#n ∧ y = 0#m := by
  constructor
  · intro h
    have high := congrArg (BitVec.extractLsb' m n) h
    have low := congrArg (BitVec.extractLsb' 0 m) h
    rw [append_high] at high
    rw [append_low] at low
    constructor
    · rw [high]; apply BitVec.eq_of_getLsbD_eq; simp
    · rw [low]; apply BitVec.eq_of_getLsbD_eq; simp
  · rintro ⟨rfl, rfl⟩
    simp

/-- A word is the concatenation of its two parts. -/
theorem append_slices {n m : Nat} (x : BitVec (n + m)) : x.extractLsb' m n ++ x.extractLsb' 0 m = x := by
  apply BitVec.eq_of_getLsbD_eq
  intro i hi
  simp only [BitVec.getLsbD_append, BitVec.getLsbD_extractLsb']
  split
  · simp; omega
  · rw [show m + (i - m) = i by omega]; simp; omega

/-! ### The fields of a command word -/

@[simp] theorem Cmd.unpack_opc (cmd : CmdWord) : (Cmd.unpack cmd).opc = cmd.extractLsb' 40 8 := rfl
@[simp] theorem Cmd.unpack_arg8 (cmd : CmdWord) : (Cmd.unpack cmd).arg8 = cmd.extractLsb' 32 8 := rfl
@[simp] theorem Cmd.unpack_arg32 (cmd : CmdWord) : (Cmd.unpack cmd).arg32 = cmd.extractLsb' 0 32 := rfl

/-- Slicing a packed command gives its fields back. -/
@[simp] theorem Cmd.unpack_pack (c : Cmd) : Cmd.unpack c.pack = c := by
  obtain ⟨opc, arg8, arg32⟩ := c
  simp only [Cmd.unpack, Cmd.pack, Cmd.mk.injEq]
  refine ⟨?_, ?_, ?_⟩ <;> apply BitVec.eq_of_getLsbD_eq <;> intro i hi <;>
    simp only [BitVec.getLsbD_append, BitVec.getLsbD_extractLsb']
  · rw [if_neg (by omega), if_neg (by omega), show 40 + i - 32 - 8 = i by omega]; simp [hi]
  · rw [if_neg (by omega), if_pos (by omega), show 32 + i - 32 = i by omega]; simp [hi]
  · rw [if_pos (by omega), show 0 + i = i by omega]; simp [hi]

/-- Packing the slices of a command word gives the word back. -/
@[simp] theorem Cmd.pack_unpack (cmd : CmdWord) : (Cmd.unpack cmd).pack = cmd := by
  simp only [Cmd.unpack, Cmd.pack]
  apply BitVec.eq_of_getLsbD_eq
  intro i hi
  simp only [BitVec.getLsbD_append, BitVec.getLsbD_extractLsb']
  split
  · simp; omega
  · split
    · rw [show 32 + (i - 32) = i by omega]; simp; omega
    · rw [show 40 + (i - 32 - 8) = i by omega]; simp; omega

/-! ### Reserved bits and the strict bit -/

/-- A reserved field lets an operation through exactly when it is zero. -/
theorem whenZero_eq_some {n : Nat} (reserved : BitVec n) (i j : Instr) :
    whenZero reserved i = some j ↔ reserved = 0 ∧ i = j := by
  unfold whenZero
  split <;> simp_all

/-- A reserved field stops a word exactly when it is not zero. -/
theorem whenZero_eq_none {n : Nat} (reserved : BitVec n) (i : Instr) :
    whenZero reserved i = none ↔ reserved ≠ 0 := by
  unfold whenZero
  split <;> simp_all

@[simp] theorem whenZero_zero {n : Nat} (i : Instr) : whenZero (0#n) i = some i := by simp [whenZero]

@[simp] theorem strictBit_strictArg (b : Bool) : strictBit (strictArg b) = b := by cases b <;> decide

@[simp] theorem strictArg_reserved (b : Bool) : (strictArg b).extractLsb' 1 7 = 0#7 := by cases b <;> decide

/-- An `arg8` whose reserved bits are zero is the one its strict bit gives. -/
theorem strictArg_strictBit (a : Byte) (h : a.extractLsb' 1 7 = 0#7) : strictArg (strictBit a) = a := by
  revert a
  decide

/-! ### What decoding answers, operation code by operation code -/

theorem decode_fields_01 (a : Byte) (b : Word) : Cmd.decode ⟨0x01#8, a, b⟩ = whenZero b (.rdreg a) := rfl
theorem decode_fields_02 (a : Byte) (b : Word) : Cmd.decode ⟨0x02#8, a, b⟩ =
    whenZero (b.extractLsb' 16 16) (.wrreg a (b.extractLsb' 0 16)) := rfl
theorem decode_fields_03 (a : Byte) (b : Word) : Cmd.decode ⟨0x03#8, a, b⟩ = whenZero (a ++ b) .gettemp := rfl
theorem decode_fields_04 (a : Byte) (b : Word) : Cmd.decode ⟨0x04#8, a, b⟩ =
    whenZero (a.extractLsb' 1 7 ++ b.extractLsb' 16 16) (.chkflags (b.extractLsb' 0 16) (strictBit a)) := rfl
theorem decode_fields_05 (a : Byte) (b : Word) : Cmd.decode ⟨0x05#8, a, b⟩ = some (.tosigned b a) := rfl
theorem decode_fields_06 (a : Byte) (b : Word) : Cmd.decode ⟨0x06#8, a, b⟩ = some (.tounsigned b a) := rfl
theorem decode_fields_10 (a : Byte) (b : Word) : Cmd.decode ⟨0x10#8, a, b⟩ =
    whenZero (a ++ b.extractLsb' 16 16) (.dectemp (b.extractLsb' 0 16)) := rfl
theorem decode_fields_11 (a : Byte) (b : Word) : Cmd.decode ⟨0x11#8, a, b⟩ = whenZero a (.enctemp b) := rfl
theorem decode_fields_12 (a : Byte) (b : Word) : Cmd.decode ⟨0x12#8, a, b⟩ =
    whenZero (a ++ b.extractLsb' 16 16) (.extflags (b.extractLsb' 0 16)) := rfl
theorem decode_fields_13 (a : Byte) (b : Word) : Cmd.decode ⟨0x13#8, a, b⟩ =
    whenZero (a.extractLsb' 1 7) (.matchflags (b.extractLsb' 16 16) (b.extractLsb' 0 16) (strictBit a)) := rfl
theorem decode_fields_20 (a : Byte) (b : Word) : Cmd.decode ⟨0x20#8, a, b⟩ =
    whenZero (a ++ b.extractLsb' 16 16) (.unpackcfg (b.extractLsb' 0 16)) := rfl
theorem decode_fields_21 (a : Byte) (b : Word) : Cmd.decode ⟨0x21#8, a, b⟩ =
    whenZero (a ++ b.extractLsb' 2 30) (.dechyst (b.extractLsb' 0 2)) := rfl
theorem decode_fields_22 (a : Byte) (b : Word) : Cmd.decode ⟨0x22#8, a, b⟩ =
    whenZero (a ++ b.extractLsb' 8 24) (.decres (b.extractLsb' 0 8)) := rfl

end Sys2Proof
end

