-- ==== Sys2Proof/Laws/Operands.lean ====
section
/-! SUPPORT. One spec lemma for each operand function: pointers, byte order, the integer codecs, the tables. -/

namespace Sys2Proof.Machine

/-! ### Pointers -/

theorem validPtr_iff (ptr : Byte) : validPtr ptr = true ↔ 0x01 ≤ ptr.toNat ∧ ptr.toNat ≤ 0x08 := by
  simp [validPtr]

theorem writablePtr_iff (ptr : Byte) : writablePtr ptr = true ↔ 0x01 ≤ ptr.toNat ∧ ptr.toNat ≤ 0x04 := by
  simp [writablePtr]

theorem validPtr_eq_false_iff (ptr : Byte) : validPtr ptr = false ↔ ptr.toNat < 0x01 ∨ 0x08 < ptr.toNat := by
  rw [← Bool.not_eq_true, validPtr_iff]; omega

theorem writablePtr_eq_false_iff (ptr : Byte) :
    writablePtr ptr = false ↔ ptr.toNat < 0x01 ∨ 0x04 < ptr.toNat := by
  rw [← Bool.not_eq_true, writablePtr_iff]; omega

@[simp] theorem validPtr_ambient : validPtr ambientPtr = true := by decide

/-- A register is one byte wide exactly when its pointer is 8, for the pointers that name one. -/
theorem ptrWidth_eq (ptr : Byte) (h : ptr.toNat ≤ 0x08) : ptrWidth ptr = if ptr.toNat = 0x08 then 1 else 2 := by
  unfold ptrWidth
  split <;> split <;> omega

/-- Every register is one or two bytes wide. -/
theorem ptrWidth_one_or_two (ptr : Byte) : ptrWidth ptr = 1 ∨ ptrWidth ptr = 2 := by
  unfold ptrWidth
  split <;> simp

/-! ### Byte order -/

/-- Two bytes received make a word, the first one the more significant. -/
@[simp] theorem wordOfBytes_pair (b0 b1 : Byte) : wordOfBytes [b0, b1] = b0 ++ b1 := by
  apply BitVec.eq_of_toNat_eq
  have h0 := b0.isLt
  have h1 := b1.isLt
  have := (b0 ++ b1).isLt
  simp only [wordOfBytes, List.foldl, BitVec.toNat_ofNat, BitVec.toNat_append]
  rw [← Nat.shiftLeft_add_eq_or_of_lt h1, Nat.shiftLeft_eq]
  omega

/-- One byte received is the word zero-extended. -/
@[simp] theorem wordOfBytes_single (b : Byte) : wordOfBytes [b] = b.setWidth 16 := by
  apply BitVec.eq_of_toNat_eq
  simp [wordOfBytes]

/-- A word is its two bytes, the more significant first. -/
@[simp] theorem hiByte_append_loByte (v : Half) : hiByte v ++ loByte v = v := append_slices (n := 8) (m := 8) v

/-- A read sends as many bytes as it is asked for, where one or two are. -/
theorem bytesOf_length (n : Nat) (v : Half) (h : n = 1 ∨ n = 2) : (bytesOf n v).length = n := by
  rcases h with rfl | rfl <;> rfl

@[simp] theorem bytesOf_one (v : Half) : bytesOf 1 v = [loByte v] := rfl
@[simp] theorem bytesOf_two (v : Half) : bytesOf 2 v = [hiByte v, loByte v] := rfl

/-! ### Integers -/

/-- An integer that is an `i32` is read back from its 32 bits. -/
theorem i32Bits_toInt (r : Int) (low : -2147483648 ≤ r) (high : r ≤ 2147483647) : (i32Bits r).toInt = r := by
  unfold i32Bits
  rw [BitVec.toInt_ofInt]
  exact Int.bmod_eq_of_le (by norm_num; omega) (by norm_num; omega)

/-- A natural number below 2^32 is read back from its 32 bits. -/
theorem u32Bits_toNat (r : Int) (low : 0 ≤ r) (high : r < 4294967296) : ((u32Bits r).toNat : Int) = r := by
  unfold u32Bits
  rw [BitVec.toNat_ofInt]
  have : ((2 ^ 32 : Nat) : Int) = 4294967296 := by norm_num
  rw [this]
  omega

theorem pow2_eq (w : Nat) : pow2 w = (2 : Int) ^ w := by simp [pow2]

theorem pow2_pos (w : Nat) : 0 < pow2 w := by rw [pow2_eq]; positivity

/-- Bit `k` of a word, as a digit of its value. -/
theorem getLsbD_iff_digit {n : Nat} (u : BitVec n) (k : Nat) :
    u.getLsbD k = true ↔ u.toNat / 2 ^ k % 2 = 1 := by
  rw [BitVec.getLsbD, Nat.testBit_eq_decide_div_mod_eq]
  simp

/-- What TOSIGNED computes before it checks the range (R110). -/
def signedValue (u : Word) (w : Byte) : Int :=
  if u.getLsbD (w.toNat - 1) then (u.toNat : Int) - pow2 w.toNat else (u.toNat : Int)

/-- TOSIGNED answers exactly where the width is 1 to 32 and the value is an `i32`, and answers that value. -/
theorem toSigned_eq_some_iff (u : Word) (w : Byte) (r : Int) :
    toSigned u w = some r ↔ 1 ≤ w.toNat ∧ w.toNat ≤ 32 ∧ r = signedValue u w ∧
      -2147483648 ≤ r ∧ r ≤ 2147483647 := by
  unfold toSigned
  split
  · simp; omega
  · change (if signedValue u w < -2147483648 ∨ 2147483647 < signedValue u w then none
      else some (signedValue u w)) = some r ↔ _
    split
    · simp; omega
    · simp only [Option.some.injEq]
      constructor
      · rintro rfl; exact ⟨by omega, by omega, rfl, by omega, by omega⟩
      · rintro ⟨-, -, rfl, -, -⟩; rfl

/-- TOSIGNED refuses exactly elsewhere. -/
theorem toSigned_eq_none_iff (u : Word) (w : Byte) :
    toSigned u w = none ↔ w.toNat < 1 ∨ 32 < w.toNat ∨ signedValue u w < -2147483648 ∨
      2147483647 < signedValue u w := by
  unfold toSigned
  split
  · simp; omega
  · change (if signedValue u w < -2147483648 ∨ 2147483647 < signedValue u w then none
      else some (signedValue u w)) = none ↔ _
    split <;> simp <;> omega

/-- TOUNSIGNED answers exactly where the width is 1 to 32 and `w` bits hold the value. -/
theorem toUnsigned_eq_some_iff (v : Word) (w : Byte) (r : Int) :
    toUnsigned v w = some r ↔ 1 ≤ w.toNat ∧ w.toNat ≤ 32 ∧ -pow2 (w.toNat - 1) ≤ v.toInt ∧
      v.toInt ≤ pow2 (w.toNat - 1) - 1 ∧ r = if v.toInt < 0 then v.toInt + pow2 w.toNat else v.toInt := by
  unfold toUnsigned i32Value
  split
  · simp; omega
  · split
    · simp; omega
    · split <;> simp only [Option.some.injEq] <;> constructor
      · rintro rfl; exact ⟨by omega, by omega, by omega, by omega, rfl⟩
      · rintro ⟨-, -, -, -, rfl⟩; rfl
      · rintro rfl; exact ⟨by omega, by omega, by omega, by omega, rfl⟩
      · rintro ⟨-, -, -, -, rfl⟩; rfl

/-- TOUNSIGNED refuses exactly elsewhere. -/
theorem toUnsigned_eq_none_iff (v : Word) (w : Byte) :
    toUnsigned v w = none ↔ w.toNat < 1 ∨ 32 < w.toNat ∨ v.toInt < -pow2 (w.toNat - 1) ∨
      pow2 (w.toNat - 1) - 1 < v.toInt := by
  unfold toUnsigned i32Value
  split
  · simp; omega
  · split
    · simp; omega
    · split <;> simp <;> omega

/-! ### Temperature -/

/-- The masked field is the value modulo 2^13. -/
theorem masked_toNat (word : Half) : (word &&& magMask).toNat = word.toNat % 8192 := by
  have : magMask.toNat = 2 ^ 13 - 1 := by decide
  rw [BitVec.toNat_and, this, Nat.and_two_pow_sub_one_eq_mod]

/-- DECTEMP in terms of the field's value (R91). -/
theorem decTemp_eq (word : Half) :
    decTemp word = if word.toNat % 8192 < 4096 then ((word.toNat % 8192 : Nat) : Int)
      else ((word.toNat % 8192 : Nat) : Int) - 8192 := by
  unfold decTemp
  simp only [getLsbD_iff_digit, masked_toNat]
  have := Nat.mod_lt word.toNat (show 0 < 8192 by norm_num)
  split <;> split <;> first | rfl | omega

/-- A decoded count is a 13-bit value (R19). -/
theorem decTemp_range (word : Half) : -4096 ≤ decTemp word ∧ decTemp word ≤ 4095 := by
  rw [decTemp_eq]
  have := Nat.mod_lt word.toNat (show 0 < 8192 by norm_num)
  split <;> omega

/-- The 32 bits of a decoded count are the sign extension of the field (R65, R91). -/
theorem i32Bits_decTemp (word : Half) : i32Bits (decTemp word) = (word.extractLsb' 0 13).signExtend 32 := by
  apply BitVec.eq_of_toInt_eq
  have range := decTemp_range word
  rw [i32Bits_toInt _ (by omega) (by omega), BitVec.toInt_signExtend, decTemp_eq, BitVec.toInt_eq_toNat_cond,
    BitVec.extractLsb'_toNat]
  have := Nat.mod_lt word.toNat (show 0 < 8192 by norm_num)
  simp [Int.bmod]
  split <;> split <;> omega

/-- ENCTEMP answers exactly on the 13-bit counts. -/
theorem encTemp_eq_some_iff (n : Int) (r : Half) :
    encTemp n = some r ↔ -4096 ≤ n ∧ n ≤ 4095 ∧ r = BitVec.ofInt 16 (n % 8192) := by
  unfold encTemp
  split
  · simp; omega
  · simp only [Option.some.injEq]
    constructor
    · rintro rfl; exact ⟨by omega, by omega, rfl⟩
    · rintro ⟨-, -, rfl⟩; rfl

theorem encTemp_eq_none_iff (n : Int) : encTemp n = none ↔ n < -4096 ∨ 4095 < n := by
  unfold encTemp
  split <;> simp <;> omega

/-! ### Flags -/

theorem flagMask_eq : flagMask = 0xE000#16 := by decide

@[simp] theorem extFlags_eq (word : Half) : extFlags word = word &&& 0xE000#16 := by
  rw [extFlags, flagMask_eq]

theorem matchFlags_strict (word req : Half) :
    matchFlags word req true = decide (word &&& 0xE000#16 &&& req = req) := by
  simp [matchFlags]

theorem matchFlags_any (word req : Half) :
    matchFlags word req false = decide (word &&& 0xE000#16 &&& req ≠ 0#16) := by
  simp [matchFlags]

@[simp] theorem boolResult_true : boolResult true = 1#32 := rfl
@[simp] theorem boolResult_false : boolResult false = 0#32 := rfl

end Sys2Proof.Machine
end

