-- ==== Sys2Proof/Laws/State.lean ====
section
/-! SUPPORT. One lemma per field per update of the state: each true by rfl, each a simp lemma, so that no proof unfolds a record update. -/

namespace Sys2Proof.Machine

/-! ### A response -/

@[simp] theorem State.respond_devAddr (s : State) (r : Response) : (s.respond r).devAddr = s.devAddr := rfl
@[simp] theorem State.respond_program (s : State) (r : Response) : (s.respond r).program = s.program := rfl
@[simp] theorem State.respond_responses (s : State) (r : Response) : (s.respond r).responses = s.responses ++ [r] := rfl
@[simp] theorem State.respond_trace (s : State) (r : Response) : (s.respond r).trace = s.trace := rfl
@[simp] theorem State.respond_waiting (s : State) (r : Response) : (s.respond r).waiting = s.waiting := rfl
@[simp] theorem State.respond_contention (s : State) (r : Response) : (s.respond r).contention = s.contention := rfl
@[simp] theorem State.respond_line (s : State) (r : Response) : (s.respond r).line = s.line := rfl
@[simp] theorem State.respond_sensor (s : State) (r : Response) : (s.respond r).sensor = s.sensor := rfl
@[simp] theorem State.respond_draws (s : State) (r : Response) : (s.respond r).draws = s.draws := rfl

/-! ### An error -/

@[simp] theorem State.raise_devAddr (s : State) (k : ErrorKind) : (s.raise k).devAddr = s.devAddr := rfl
@[simp] theorem State.raise_program (s : State) (k : ErrorKind) : (s.raise k).program = s.program := rfl
@[simp] theorem State.raise_responses (s : State) (k : ErrorKind) : (s.raise k).responses = s.responses ++ [.error k] := rfl
@[simp] theorem State.raise_trace (s : State) (k : ErrorKind) : (s.raise k).trace = s.trace := rfl
@[simp] theorem State.raise_waiting (s : State) (k : ErrorKind) : (s.raise k).waiting = s.waiting := rfl
@[simp] theorem State.raise_contention (s : State) (k : ErrorKind) : (s.raise k).contention = s.contention := rfl
@[simp] theorem State.raise_line (s : State) (k : ErrorKind) : (s.raise k).line = s.line := rfl
@[simp] theorem State.raise_sensor (s : State) (k : ErrorKind) : (s.raise k).sensor = s.sensor := rfl
@[simp] theorem State.raise_draws (s : State) (k : ErrorKind) : (s.raise k).draws = s.draws := rfl

/-! ### A transport call -/

@[simp] theorem State.afterCall_devAddr (s : State) (c : BusCall) : (s.afterCall c).devAddr = s.devAddr := rfl
@[simp] theorem State.afterCall_program (s : State) (c : BusCall) : (s.afterCall c).program = s.program := rfl
@[simp] theorem State.afterCall_responses (s : State) (c : BusCall) : (s.afterCall c).responses = s.responses := rfl
@[simp] theorem State.afterCall_trace (s : State) (c : BusCall) : (s.afterCall c).trace = s.trace ++ [⟨c, s.busAnswer c⟩] := rfl
@[simp] theorem State.afterCall_waiting (s : State) (c : BusCall) : (s.afterCall c).waiting = if s.busAnswer c = .silent then some c else s.waiting := rfl
@[simp] theorem State.afterCall_contention (s : State) (c : BusCall) : (s.afterCall c).contention = s.contention := rfl
@[simp] theorem State.afterCall_line (s : State) (c : BusCall) : (s.afterCall c).line = s.line.tail := rfl
@[simp] theorem State.afterCall_sensor (s : State) (c : BusCall) : (s.afterCall c).sensor = (s.transfer c).2 := rfl
@[simp] theorem State.afterCall_draws (s : State) (c : BusCall) : (s.afterCall c).draws = s.draws + 1 := rfl

/-! ### A command sent -/

@[simp] theorem State.sent_devAddr (s : State) : (s.sent).devAddr = s.devAddr := rfl
@[simp] theorem State.sent_program (s : State) : (s.sent).program = s.program.tail := rfl
@[simp] theorem State.sent_responses (s : State) : (s.sent).responses = s.responses := rfl
@[simp] theorem State.sent_trace (s : State) : (s.sent).trace = s.trace := rfl
@[simp] theorem State.sent_waiting (s : State) : (s.sent).waiting = s.waiting := rfl
@[simp] theorem State.sent_contention (s : State) : (s.sent).contention = s.contention := rfl
@[simp] theorem State.sent_line (s : State) : (s.sent).line = s.line := rfl
@[simp] theorem State.sent_sensor (s : State) : (s.sent).sensor = s.sensor := rfl
@[simp] theorem State.sent_draws (s : State) : (s.sent).draws = s.draws := rfl

/-! ### A command given -/

@[simp] theorem State.withCommand_devAddr (s : State) (cmd : CmdWord) : (s.withCommand cmd).devAddr = s.devAddr := rfl
@[simp] theorem State.withCommand_program (s : State) (cmd : CmdWord) : (s.withCommand cmd).program = cmd :: s.program := rfl
@[simp] theorem State.withCommand_responses (s : State) (cmd : CmdWord) : (s.withCommand cmd).responses = s.responses := rfl
@[simp] theorem State.withCommand_trace (s : State) (cmd : CmdWord) : (s.withCommand cmd).trace = s.trace := rfl
@[simp] theorem State.withCommand_waiting (s : State) (cmd : CmdWord) : (s.withCommand cmd).waiting = none := rfl
@[simp] theorem State.withCommand_contention (s : State) (cmd : CmdWord) : (s.withCommand cmd).contention = none := rfl
@[simp] theorem State.withCommand_line (s : State) (cmd : CmdWord) : (s.withCommand cmd).line = s.line := rfl
@[simp] theorem State.withCommand_sensor (s : State) (cmd : CmdWord) : (s.withCommand cmd).sensor = s.sensor := rfl
@[simp] theorem State.withCommand_draws (s : State) (cmd : CmdWord) : (s.withCommand cmd).draws = s.draws := rfl

end Sys2Proof.Machine
end

