-- ==== Sys2Proof/Laws/Ops.lean ====
section
/-! SUPPORT. What each shared operation can do, said once: the sensor, the transport call, the register read and write, the end of an operation. -/

namespace Sys2Proof.Machine

/-! ### The sensor -/

@[simp] theorem Sensor.unsettled_model (v : Sensor) (n : Nat) : (v.unsettled n).model = v.model := rfl

@[simp] theorem Sensor.setReg_ptr (v : Sensor) (p : Byte) (x : Half) : (v.setReg p x).ptr = v.ptr := by
  unfold Sensor.setReg
  split <;> rfl

@[simp] theorem Sensor.setReg_model (v : Sensor) (p : Byte) (x : Half) : (v.setReg p x).model = v.model := by
  unfold Sensor.setReg
  split <;> rfl

/-- A pointer that names a register is one of eight. -/
theorem validPtr_cases (ptr : Byte) (h : validPtr ptr = true) :
    ptr = 1#8 ∨ ptr = 2#8 ∨ ptr = 3#8 ∨ ptr = 4#8 ∨ ptr = 5#8 ∨ ptr = 6#8 ∨ ptr = 7#8 ∨ ptr = 8#8 := by
  revert ptr
  decide

/-- A writable pointer is one of four. -/
theorem writablePtr_cases (ptr : Byte) (h : writablePtr ptr = true) :
    ptr = 1#8 ∨ ptr = 2#8 ∨ ptr = 3#8 ∨ ptr = 4#8 := by
  revert ptr
  decide

/-- A writable register exists. -/
theorem validPtr_of_writable (ptr : Byte) (h : writablePtr ptr = true) : validPtr ptr = true := by
  rw [writablePtr_iff] at h
  rw [validPtr_iff]
  omega

/-- A 16-bit register holds what it was given. -/
theorem Sensor.reg_setReg_same (v : Sensor) (n : Nat) (p : Byte) (x : Half) (h : validPtr p = true) (wide : p ≠ 8#8) :
    (v.setReg p x).reg n p = x := by
  rcases validPtr_cases p h with rfl | rfl | rfl | rfl | rfl | rfl | rfl | rfl <;> first | rfl | exact absurd rfl wide

/-- The byte register holds the low byte of what it was given. -/
theorem Sensor.reg_setReg_byte (v : Sensor) (n : Nat) (x : Half) :
    (v.setReg 8#8 x).reg n 8#8 = (x.setWidth 8).setWidth 16 := rfl

/-- Every other register keeps its value. -/
theorem Sensor.reg_setReg_other (v : Sensor) (n : Nat) (p q : Byte) (x : Half) (hp : validPtr p = true)
    (hq : validPtr q = true) (h : q ≠ p) : (v.setReg p x).reg n q = v.reg n q := by
  rcases validPtr_cases p hp with rfl | rfl | rfl | rfl | rfl | rfl | rfl | rfl <;>
    rcases validPtr_cases q hq with rfl | rfl | rfl | rfl | rfl | rfl | rfl | rfl <;>
    first | rfl | exact absurd rfl h

/-- A register does not depend on where the sensor's pointer stands. -/
theorem Sensor.reg_withPtr (v : Sensor) (n : Nat) (p q : Byte) : ({ v with ptr := q } : Sensor).reg n p = v.reg n p := rfl

/-- A select write leaves the pointer at its register, whichever sensor it reaches (R25, R152). -/
@[simp] theorem Sensor.takeWrite_select_ptr (v : Sensor) (n : Nat) (q : Byte) : (v.takeWrite n [q]).ptr = q := by
  unfold Sensor.takeWrite
  split <;> rfl

/-- A write transaction does not change which sensor stands there. -/
@[simp] theorem Sensor.takeWrite_model (v : Sensor) (n : Nat) (bytes : List Byte) :
    (v.takeWrite n bytes).model = v.model := by
  unfold Sensor.takeWrite
  split <;> split <;> first | rfl | (split <;> simp)

@[simp] theorem Sensor.afterFailure_model (v : Sensor) (n : Nat) : (v.afterFailure n).model = v.model := by
  unfold Sensor.afterFailure
  split <;> rfl

/-- The word the oracle shows where one is listed: that word. -/
theorem Sensor.readWord_oracle (v : Sensor) (n : Nat) (x : Half) (rest : List Half)
    (h : v.model = .oracle (x :: rest)) : v.readWord n = x := by
  simp [Sensor.readWord, h]

/-- The word `SimSensor` shows: what the register holds once the sample is taken. -/
theorem Sensor.readWord_sim (v : Sensor) (n : Nat) (amb : List Half) (addr : DevAddr) (h : v.model = .sim amb addr) :
    v.readWord n = (v.afterRead n).reg n v.ptr := by
  simp [Sensor.readWord, h]

/-- What a read leaves in the oracle, but for its list, does not depend on the word shown or on anything before (R49). -/
theorem Sensor.afterRead_oracle (v : Sensor) (n : Nat) (reads : List Half) (h : v.model = .oracle reads) :
    v.afterRead n = { v.unsettled n with model := .oracle reads.tail } := by
  cases reads <;> simp [Sensor.afterRead, h, Sensor.unsettled]

/-- A read uses up one listed word. -/
theorem Sensor.afterRead_oracle_model (v : Sensor) (n : Nat) (reads : List Half) (h : v.model = .oracle reads) :
    (v.afterRead n).model = .oracle reads.tail := by
  rw [v.afterRead_oracle n reads h]

/-! ### The transport call -/

theorem State.transfer_failed (s : State) (c : BusCall) (e : IoErr) (h : s.delivery = .failed e) :
    s.transfer c = (.fail e, s.sensor.afterFailure s.draws) := by
  simp [State.transfer, h]

theorem State.transfer_silent (s : State) (c : BusCall) (h : s.delivery = .silent) :
    s.transfer c = (.silent, s.sensor.afterFailure s.draws) := by
  simp [State.transfer, h]

theorem State.transfer_carried (s : State) (c : BusCall) (h : s.delivery = .carried) :
    s.transfer c = s.sensor.serve s.draws c := by
  simp [State.transfer, h]

/-- A listed outcome is the outcome of the next call. -/
theorem State.delivery_listed (s : State) (d : Delivery) (rest : List Delivery) (h : s.line = d :: rest) :
    s.delivery = d := by
  simp [State.delivery, h]

/-- A write that succeeds answers with no bytes. -/
theorem State.busAnswer_write_ok (s : State) (a : DevAddr) (bytes got : List Byte)
    (h : s.busAnswer (.write a bytes) = .ok got) : got = [] := by
  unfold State.busAnswer State.transfer Sensor.serve at h
  split at h
  · split at h <;> simp_all
  · simp at h
  · simp at h

/-- A read of one or two bytes that succeeds answers with exactly that many. -/
theorem State.busAnswer_read_ok (s : State) (a : DevAddr) (n : Nat) (got : List Byte) (hn : n = 1 ∨ n = 2)
    (h : s.busAnswer (.read a n) = .ok got) : got.length = n := by
  unfold State.busAnswer State.transfer Sensor.serve at h
  split at h
  · split at h
    · simp only [BusAnswer.ok.injEq] at h
      rw [← h]
      exact bytesOf_length n _ hn
    · simp at h
  · simp at h
  · simp at h

/-- A select write that succeeds leaves the sensor's pointer at the register selected. -/
theorem State.afterCall_select_ptr (s : State) (a : DevAddr) (q : Byte) (got : List Byte)
    (h : s.busAnswer (.write a [q]) = .ok got) : (s.afterCall (.write a [q])).sensor.ptr = q := by
  unfold State.busAnswer at h
  rw [State.afterCall_sensor]
  unfold State.transfer Sensor.serve at h ⊢
  split at h
  · split at h
    next hc => simp [hc]
    next => simp at h
  · simp at h
  · simp at h

/-! ### Register read and write -/

/-- Everything a register read can do (R43): the select write fails, or is never answered; or it succeeds and the read fails, or is
never answered, or gives the value of the bytes received. -/
theorem regRead_cases (s : State) (ptr : Byte) :
    (∃ e, s.busAnswer (selectCall s ptr) = .fail e ∧
      regRead s ptr = (.ioError e, s.afterCall (selectCall s ptr))) ∨
    (s.busAnswer (selectCall s ptr) = .silent ∧ regRead s ptr = (.hung, s.afterCall (selectCall s ptr))) ∨
    (s.busAnswer (selectCall s ptr) = .ok [] ∧ ∃ s1, s1 = s.afterCall (selectCall s ptr) ∧
      ((∃ e, s1.busAnswer (readCall s ptr) = .fail e ∧
          regRead s ptr = (.ioError e, s1.afterCall (readCall s ptr))) ∨
        (s1.busAnswer (readCall s ptr) = .silent ∧
          regRead s ptr = (.hung, s1.afterCall (readCall s ptr))) ∨
        (∃ bytes, s1.busAnswer (readCall s ptr) = .ok bytes ∧ bytes.length = ptrWidth ptr ∧
          regRead s ptr = (.value (wordOfBytes bytes), s1.afterCall (readCall s ptr))))) := by
  have hr : readCall (s.afterCall (selectCall s ptr)) ptr = readCall s ptr := rfl
  unfold regRead
  cases h : s.busAnswer (selectCall s ptr) with
  | fail e => exact .inl ⟨e, rfl, rfl⟩
  | silent => exact .inr (.inl ⟨rfl, rfl⟩)
  | ok got =>
    obtain rfl := s.busAnswer_write_ok _ _ _ h
    refine .inr (.inr ⟨rfl, _, rfl, ?_⟩)
    simp only [hr]
    cases h2 : (s.afterCall (selectCall s ptr)).busAnswer (readCall s ptr) with
    | fail e => exact .inl ⟨e, rfl, rfl⟩
    | silent => exact .inr (.inl ⟨rfl, rfl⟩)
    | ok bytes =>
      exact .inr (.inr ⟨bytes, rfl, State.busAnswer_read_ok _ _ _ _ (ptrWidth_one_or_two ptr) h2, rfl⟩)

/-- Everything a register write can do (R44). -/
theorem regWrite_cases (s : State) (ptr : Byte) (data : Half) :
    (∃ e, s.busAnswer (writeCall s ptr data) = .fail e ∧
      regWrite s ptr data = (.ioError e, s.afterCall (writeCall s ptr data))) ∨
    (s.busAnswer (writeCall s ptr data) = .silent ∧
      regWrite s ptr data = (.hung, s.afterCall (writeCall s ptr data))) ∨
    (s.busAnswer (writeCall s ptr data) = .ok [] ∧
      regWrite s ptr data = (.value 0#16, s.afterCall (writeCall s ptr data))) := by
  unfold regWrite
  cases h : s.busAnswer (writeCall s ptr data) with
  | fail e => exact .inl ⟨e, rfl, rfl⟩
  | silent => exact .inr (.inl ⟨rfl, rfl⟩)
  | ok got =>
    obtain rfl := s.busAnswer_write_ok _ _ _ h
    exact .inr (.inr ⟨rfl, rfl⟩)

/-- A failed select write ends the read; no read transaction follows. -/
theorem regRead_select_fail (s : State) (ptr : Byte) (e : IoErr) (h : s.busAnswer (selectCall s ptr) = .fail e) :
    regRead s ptr = (.ioError e, s.afterCall (selectCall s ptr)) := by
  simp [regRead, h]

/-- A select write that is never answered ends nothing. -/
theorem regRead_select_silent (s : State) (ptr : Byte) (h : s.busAnswer (selectCall s ptr) = .silent) :
    regRead s ptr = (.hung, s.afterCall (selectCall s ptr)) := by
  simp [regRead, h]

theorem regRead_read_fail (s : State) (ptr : Byte) (e : IoErr) (got : List Byte)
    (h : s.busAnswer (selectCall s ptr) = .ok got)
    (h2 : (s.afterCall (selectCall s ptr)).busAnswer (readCall s ptr) = .fail e) :
    regRead s ptr = (.ioError e, (s.afterCall (selectCall s ptr)).afterCall (readCall s ptr)) := by
  have hr : readCall (s.afterCall (selectCall s ptr)) ptr = readCall s ptr := rfl
  simp [regRead, h, hr, h2]

theorem regRead_read_silent (s : State) (ptr : Byte) (got : List Byte)
    (h : s.busAnswer (selectCall s ptr) = .ok got)
    (h2 : (s.afterCall (selectCall s ptr)).busAnswer (readCall s ptr) = .silent) :
    regRead s ptr = (.hung, (s.afterCall (selectCall s ptr)).afterCall (readCall s ptr)) := by
  have hr : readCall (s.afterCall (selectCall s ptr)) ptr = readCall s ptr := rfl
  simp [regRead, h, hr, h2]

/-- A read whose two calls succeed gives the word of the bytes received. -/
theorem regRead_ok (s : State) (ptr : Byte) (got bytes : List Byte)
    (h : s.busAnswer (selectCall s ptr) = .ok got)
    (h2 : (s.afterCall (selectCall s ptr)).busAnswer (readCall s ptr) = .ok bytes) :
    regRead s ptr = (.value (wordOfBytes bytes), (s.afterCall (selectCall s ptr)).afterCall (readCall s ptr)) := by
  have hr : readCall (s.afterCall (selectCall s ptr)) ptr = readCall s ptr := rfl
  simp [regRead, h, hr, h2]

theorem regWrite_fail (s : State) (ptr : Byte) (data : Half) (e : IoErr)
    (h : s.busAnswer (writeCall s ptr data) = .fail e) :
    regWrite s ptr data = (.ioError e, s.afterCall (writeCall s ptr data)) := by
  simp [regWrite, h]

theorem regWrite_silent (s : State) (ptr : Byte) (data : Half) (h : s.busAnswer (writeCall s ptr data) = .silent) :
    regWrite s ptr data = (.hung, s.afterCall (writeCall s ptr data)) := by
  simp [regWrite, h]

theorem regWrite_ok (s : State) (ptr : Byte) (data : Half) (got : List Byte)
    (h : s.busAnswer (writeCall s ptr data) = .ok got) :
    regWrite s ptr data = (.value 0#16, s.afterCall (writeCall s ptr data)) := by
  simp [regWrite, h]

/-! ### The end of an operation -/

@[simp] theorem finish_value (f : Half → Word) (v : Half) (s : State) :
    finish f (.value v, s) = s.respond (.ok (f v)) := rfl
@[simp] theorem finish_ioError (f : Half → Word) (e : IoErr) (s : State) :
    finish f (.ioError e, s) = s.raise (.ioError e) := rfl
@[simp] theorem finish_hung (f : Half → Word) (s : State) : finish f (.hung, s) = s := rfl

@[simp] theorem State.answer_some (s : State) (v : Word) : s.answer (some v) = s.respond (.ok v) := rfl
@[simp] theorem State.answer_none (s : State) : s.answer none = s.raise .illegalCommand := rfl

end Sys2Proof.Machine
end

