-- ==== Sys2Proof/Laws/Exec.lean ====
section
/-! SUPPORT. What running an operation can do, said once for all of them: `exec` always answers a next state, and it is one of nine. -/

namespace Sys2Proof.Machine

/-- The states an operation can end in: a response and nothing else; or a register read that failed, hung or answered; or a
register write that failed, hung or answered. -/
inductive Ends (s : State) : State → Prop
  | pure (r : Response) (h : ∀ e, r ≠ .error (.ioError e)) : Ends s (s.respond r)
  | selectFailed (ptr : Byte) (e : IoErr) (hp : validPtr ptr = true)
      (h : s.busAnswer (selectCall s ptr) = .fail e) :
      Ends s ((s.afterCall (selectCall s ptr)).raise (.ioError e))
  | selectHung (ptr : Byte) (hp : validPtr ptr = true) (h : s.busAnswer (selectCall s ptr) = .silent) :
      Ends s (s.afterCall (selectCall s ptr))
  | readFailed (ptr : Byte) (e : IoErr) (hp : validPtr ptr = true) (h : s.busAnswer (selectCall s ptr) = .ok [])
      (h2 : (s.afterCall (selectCall s ptr)).busAnswer (readCall s ptr) = .fail e) :
      Ends s (((s.afterCall (selectCall s ptr)).afterCall (readCall s ptr)).raise (.ioError e))
  | readHung (ptr : Byte) (hp : validPtr ptr = true) (h : s.busAnswer (selectCall s ptr) = .ok [])
      (h2 : (s.afterCall (selectCall s ptr)).busAnswer (readCall s ptr) = .silent) :
      Ends s ((s.afterCall (selectCall s ptr)).afterCall (readCall s ptr))
  | readDone (ptr : Byte) (bytes : List Byte) (f : Half → Word) (hp : validPtr ptr = true)
      (h : s.busAnswer (selectCall s ptr) = .ok [])
      (h2 : (s.afterCall (selectCall s ptr)).busAnswer (readCall s ptr) = .ok bytes) :
      Ends s (((s.afterCall (selectCall s ptr)).afterCall (readCall s ptr)).respond (.ok (f (wordOfBytes bytes))))
  | writeFailed (ptr : Byte) (data : Half) (e : IoErr) (hp : writablePtr ptr = true)
      (h : s.busAnswer (writeCall s ptr data) = .fail e) :
      Ends s ((s.afterCall (writeCall s ptr data)).raise (.ioError e))
  | writeHung (ptr : Byte) (data : Half) (hp : writablePtr ptr = true)
      (h : s.busAnswer (writeCall s ptr data) = .silent) :
      Ends s (s.afterCall (writeCall s ptr data))
  | writeDone (ptr : Byte) (data : Half) (hp : writablePtr ptr = true)
      (h : s.busAnswer (writeCall s ptr data) = .ok []) :
      Ends s ((s.afterCall (writeCall s ptr data)).respond (.ok 0#32))

/-- What ending on a register read can give. -/
theorem Ends.ofRead (s : State) (f : Half → Word) (ptr : Byte) (hp : validPtr ptr = true) :
    Ends s (finish f (regRead s ptr)) := by
  rcases regRead_cases s ptr with ⟨e, h, hr⟩ | ⟨h, hr⟩ | ⟨h, s1, rfl, ⟨e, h2, hr⟩ | ⟨h2, hr⟩ | ⟨bytes, h2, _, hr⟩⟩ <;>
    rw [hr]
  · exact .selectFailed ptr e hp h
  · exact .selectHung ptr hp h
  · exact .readFailed ptr e hp h h2
  · exact .readHung ptr hp h h2
  · exact .readDone ptr bytes f hp h h2

/-- What ending on a register write can give. -/
theorem Ends.ofWrite (s : State) (ptr : Byte) (data : Half) (hp : writablePtr ptr = true) :
    Ends s (finish zext32 (regWrite s ptr data)) := by
  rcases regWrite_cases s ptr data with ⟨e, h, hr⟩ | ⟨h, hr⟩ | ⟨h, hr⟩ <;> rw [hr]
  · exact .writeFailed ptr data e hp h
  · exact .writeHung ptr data hp h
  · exact .writeDone ptr data hp h

/-- A pure operation that may refuse its operands ends with a response. -/
theorem Ends.ofAnswer (s : State) (r : Option Word) : Ends s (s.answer r) := by
  cases r <;> exact .pure _ (by simp)

/-- Every operation answers a next state, and it is one of these. -/
theorem exec_ends (i : Instr) (s : State) : ∃ t, exec i s = .next t ∧ Ends s t := by
  cases i with
  | rdreg ptr =>
    refine ⟨_, rfl, ?_⟩
    split
    next hp => exact .ofRead s _ ptr hp
    next => exact .pure _ (by simp)
  | wrreg ptr data =>
    refine ⟨_, rfl, ?_⟩
    split
    next hp => exact .ofWrite s ptr data hp
    next => exact .pure _ (by simp)
  | gettemp => exact ⟨_, rfl, .ofRead s _ _ (by decide)⟩
  | chkflags req strict => exact ⟨_, rfl, .ofRead s _ _ (by decide)⟩
  | tosigned u w => exact ⟨_, rfl, .ofAnswer s _⟩
  | tounsigned v w => exact ⟨_, rfl, .ofAnswer s _⟩
  | enctemp n => exact ⟨_, rfl, .ofAnswer s _⟩
  | dectemp word => exact ⟨_, rfl, .pure _ (by simp)⟩
  | extflags word => exact ⟨_, rfl, .pure _ (by simp)⟩
  | matchflags word req strict => exact ⟨_, rfl, .pure _ (by simp)⟩
  | unpackcfg word => exact ⟨_, rfl, .pure _ (by simp)⟩
  | dechyst code => exact ⟨_, rfl, .pure _ (by simp)⟩
  | decres byte => exact ⟨_, rfl, .pure _ (by simp)⟩

/-- In contract and with a command to take, a step takes it. -/
theorem step_takes (s : State) (cmd : CmdWord) (rest : List CmdWord) (hc : s.contention = none)
    (hw : s.waiting = none) (hp : s.program = cmd :: rest) : step s = runCommand cmd s.sent := by
  simp [step, takeCommand, hc, hw, hp]

end Sys2Proof.Machine
end

