-- ==== Sys2Proof/Laws/PerInstr.lean ====
section
/-! SUPPORT. Statements made once per operation. EncodeMatchesRow: the command word of the operation carries the operation code of its row, and its reserved bits are zero, so that the row of its mnemonic, and no other, matches it (spec/30_encoding.md R66, R67). -/

namespace Sys2Proof.Laws.EncodeMatchesRow

/-- The row of the operation's mnemonic matches its command word. -/
def Statement (i : Instr) : Prop :=
  ∃ r ∈ opcodeTable, r.mnemonic = i.mnemonic ∧ encode i &&& r.mask = r.value

/-- A command word is masked field by field. -/
theorem masked_eq (c : Cmd) (o a : Byte) (b : Word) (mo ma : Byte) (mb : Word)
    (h1 : c.opc &&& mo = o) (h2 : c.arg8 &&& ma = a) (h3 : c.arg32 &&& mb = b) :
    c.pack &&& ((mo ++ ma) ++ mb) = (o ++ a) ++ b := by
  subst h1 h2 h3
  simp only [Cmd.pack]
  apply BitVec.eq_of_getLsbD_eq
  intro i hi
  simp only [BitVec.getLsbD_and, BitVec.getLsbD_append]
  split
  · simp
  · split <;> simp

/-- A 16-bit operand has no bit in the high half. -/
@[simp] theorem lowHalf_masked (h : Half) : lowHalf h &&& 0xFFFF0000#32 = 0#32 := by
  apply BitVec.eq_of_getLsbD_eq
  intro i hi
  simp only [lowHalf, BitVec.getLsbD_and, BitVec.getLsbD_append]
  split
  next hl =>
    have : (0xFFFF0000#32).getLsbD i = false := by
      have key : ∀ k < 16, (0xFFFF0000#32).getLsbD k = false := by decide
      exact key i hl
    simp [this]
  next => simp

/-- A matching mode has no bit but its lowest. -/
@[simp] theorem strictArg_masked (b : Bool) : strictArg b &&& 0xFE#8 = 0#8 := by cases b <;> decide

/-- A 2-bit code has no bit but its lowest two. -/
@[simp] theorem code_masked (code : BitVec 2) : (0#30 ++ code : Word) &&& 0xFFFFFFFC#32 = 0#32 := by
  revert code
  decide

/-- A byte has no bit above its lowest eight. -/
@[simp] theorem byte_masked (byte : Byte) : (0#24 ++ byte : Word) &&& 0xFFFFFF00#32 = 0#32 := by
  revert byte
  decide

/-- The row at an index of the table matches an operation's command, field by field. -/
theorem of_row (i : Instr) (r : OpcodeRow) (o a : Byte) (b : Word) (mo ma : Byte) (mb : Word) (mem : r ∈ opcodeTable)
    (name : r.mnemonic = i.mnemonic) (value : r.value = (o ++ a) ++ b) (mask : r.mask = (mo ++ ma) ++ mb)
    (h1 : i.toCmd.opc &&& mo = o) (h2 : i.toCmd.arg8 &&& ma = a) (h3 : i.toCmd.arg32 &&& mb = b) : Statement i :=
  ⟨r, mem, name, by rw [value, mask]; exact masked_eq _ _ _ _ _ _ _ h1 h2 h3⟩

theorem rdreg (ptr : Byte) : Statement (.rdreg ptr) :=
  of_row _ ⟨"RDREG", 0x010000000000#48, 0xFF00FFFFFFFF#48⟩ 0x01#8 0x00#8 0x00000000#32 0xFF#8 0x00#8 0xFFFFFFFF#32 (by decide) rfl
    (by decide) (by decide) (by simp [Instr.toCmd]) (by simp [Instr.toCmd]) (by simp [Instr.toCmd])

theorem wrreg (ptr : Byte) (data : Half) : Statement (.wrreg ptr data) :=
  of_row _ ⟨"WRREG", 0x020000000000#48, 0xFF00FFFF0000#48⟩ 0x02#8 0x00#8 0x00000000#32 0xFF#8 0x00#8 0xFFFF0000#32 (by decide) rfl
    (by decide) (by decide) (by simp [Instr.toCmd]) (by simp [Instr.toCmd]) (by simp [Instr.toCmd])

theorem gettemp : Statement .gettemp :=
  of_row _ ⟨"GETTEMP", 0x030000000000#48, 0xFFFFFFFFFFFF#48⟩ 0x03#8 0x00#8 0x00000000#32 0xFF#8 0xFF#8 0xFFFFFFFF#32 (by decide) rfl
    (by decide) (by decide) (by simp [Instr.toCmd]) (by simp [Instr.toCmd]) (by simp [Instr.toCmd])

theorem chkflags (req : Half) (strict : Bool) : Statement (.chkflags req strict) :=
  of_row _ ⟨"CHKFLAGS", 0x040000000000#48, 0xFFFEFFFF0000#48⟩ 0x04#8 0x00#8 0x00000000#32 0xFF#8 0xFE#8 0xFFFF0000#32 (by decide) rfl
    (by decide) (by decide) (by simp [Instr.toCmd]) (by simp [Instr.toCmd]) (by simp [Instr.toCmd])

theorem tosigned (u : Word) (w : Byte) : Statement (.tosigned u w) :=
  of_row _ ⟨"TOSIGNED", 0x050000000000#48, 0xFF0000000000#48⟩ 0x05#8 0x00#8 0x00000000#32 0xFF#8 0x00#8 0x00000000#32 (by decide) rfl
    (by decide) (by decide) (by simp [Instr.toCmd]) (by simp [Instr.toCmd]) (by simp [Instr.toCmd])

theorem tounsigned (v : Word) (w : Byte) : Statement (.tounsigned v w) :=
  of_row _ ⟨"TOUNSIGNED", 0x060000000000#48, 0xFF0000000000#48⟩ 0x06#8 0x00#8 0x00000000#32 0xFF#8 0x00#8 0x00000000#32 (by decide) rfl
    (by decide) (by decide) (by simp [Instr.toCmd]) (by simp [Instr.toCmd]) (by simp [Instr.toCmd])

theorem dectemp (word : Half) : Statement (.dectemp word) :=
  of_row _ ⟨"DECTEMP", 0x100000000000#48, 0xFFFFFFFF0000#48⟩ 0x10#8 0x00#8 0x00000000#32 0xFF#8 0xFF#8 0xFFFF0000#32 (by decide) rfl
    (by decide) (by decide) (by simp [Instr.toCmd]) (by simp [Instr.toCmd]) (by simp [Instr.toCmd])

theorem enctemp (n : Word) : Statement (.enctemp n) :=
  of_row _ ⟨"ENCTEMP", 0x110000000000#48, 0xFFFF00000000#48⟩ 0x11#8 0x00#8 0x00000000#32 0xFF#8 0xFF#8 0x00000000#32 (by decide) rfl
    (by decide) (by decide) (by simp [Instr.toCmd]) (by simp [Instr.toCmd]) (by simp [Instr.toCmd])

theorem extflags (word : Half) : Statement (.extflags word) :=
  of_row _ ⟨"EXTFLAGS", 0x120000000000#48, 0xFFFFFFFF0000#48⟩ 0x12#8 0x00#8 0x00000000#32 0xFF#8 0xFF#8 0xFFFF0000#32 (by decide) rfl
    (by decide) (by decide) (by simp [Instr.toCmd]) (by simp [Instr.toCmd]) (by simp [Instr.toCmd])

theorem matchflags (word req : Half) (strict : Bool) : Statement (.matchflags word req strict) :=
  of_row _ ⟨"MATCHFLAGS", 0x130000000000#48, 0xFFFE00000000#48⟩ 0x13#8 0x00#8 0x00000000#32 0xFF#8 0xFE#8 0x00000000#32 (by decide) rfl
    (by decide) (by decide) (by simp [Instr.toCmd]) (by simp [Instr.toCmd]) (by simp [Instr.toCmd])

theorem unpackcfg (word : Half) : Statement (.unpackcfg word) :=
  of_row _ ⟨"UNPACKCFG", 0x200000000000#48, 0xFFFFFFFF0000#48⟩ 0x20#8 0x00#8 0x00000000#32 0xFF#8 0xFF#8 0xFFFF0000#32 (by decide) rfl
    (by decide) (by decide) (by simp [Instr.toCmd]) (by simp [Instr.toCmd]) (by simp [Instr.toCmd])

theorem dechyst (code : BitVec 2) : Statement (.dechyst code) :=
  of_row _ ⟨"DECHYST", 0x210000000000#48, 0xFFFFFFFFFFFC#48⟩ 0x21#8 0x00#8 0x00000000#32 0xFF#8 0xFF#8 0xFFFFFFFC#32 (by decide) rfl
    (by decide) (by decide) (by simp [Instr.toCmd]) (by simp [Instr.toCmd]) (by simp [Instr.toCmd])

theorem decres (byte : Byte) : Statement (.decres byte) :=
  of_row _ ⟨"DECRES", 0x220000000000#48, 0xFFFFFFFFFF00#48⟩ 0x22#8 0x00#8 0x00000000#32 0xFF#8 0xFF#8 0xFFFFFF00#32 (by decide) rfl
    (by decide) (by decide) (by simp [Instr.toCmd]) (by simp [Instr.toCmd]) (by simp [Instr.toCmd])

end Sys2Proof.Laws.EncodeMatchesRow
end

