-- ==== Sys2Proof/Laws/Protocol.lean ====
section
/-! SUPPORT. Laws of the bus protocol: it holds of a concatenation of traces that keep it, and of what one register access makes. -/

namespace Sys2Proof.Machine

/-- Two traces that keep the protocol, one after the other, keep it. -/
theorem traceKeepsProtocol_append (a : DevAddr) (t u : List BusEvent) (ht : traceKeepsProtocol a t = true)
    (hu : traceKeepsProtocol a u = true) : traceKeepsProtocol a (t ++ u) = true := by
  induction t using traceKeepsProtocol.induct a with
  | case1 => simpa using hu
  | case2 e rest hw ih =>
    rw [traceKeepsProtocol, if_pos hw] at ht
    rw [List.cons_append, traceKeepsProtocol, if_pos hw]
    exact ih ht
  | case3 e hw b ptr hc hok => simp [traceKeepsProtocol, hw, hc, hok] at ht
  | case4 e hw b ptr hc hok r rest ih =>
    simp [traceKeepsProtocol, hw, hc, hok] at ht
    simp [traceKeepsProtocol, hw, hc, hok, ht.1, ih ht.2]
  | case5 e rest hw b ptr hc hok ih =>
    simp [traceKeepsProtocol, hw, hc, hok] at ht
    simp [traceKeepsProtocol, hw, hc, hok, ht.1, ih ht.2]
  | case6 e rest hw hc =>
    rw [traceKeepsProtocol, if_neg hw] at ht
    split at ht
    next b ptr h => exact (hc b ptr h).elim
    next => exact absurd ht (by simp)

/-- A select write of a register, not successful, keeps the protocol. -/
theorem traceKeepsProtocol_select (a : DevAddr) (ptr : Byte) (ans : BusAnswer) (hp : validPtr ptr = true)
    (hok : ans.isOk = false) : traceKeepsProtocol a [⟨.write a [ptr], ans⟩] = true := by
  cases ans <;> simp_all [traceKeepsProtocol, BusEvent.isRegWrite, BusEvent.isSelect, BusAnswer.isOk, BusAnswer.ofWrite]

/-- A select write that succeeds and the read of the register's width keep the protocol. -/
theorem traceKeepsProtocol_read (a : DevAddr) (ptr : Byte) (ans : BusAnswer) (hp : validPtr ptr = true)
    (hr : ans.ofRead (ptrWidth ptr) = true) :
    traceKeepsProtocol a [⟨.write a [ptr], .ok []⟩, ⟨.read a (ptrWidth ptr), ans⟩] = true := by
  simp [traceKeepsProtocol, BusEvent.isRegWrite, BusEvent.isSelect, BusEvent.isReadOf, BusAnswer.isOk,
    BusAnswer.ofWrite, hp, hr]

/-- A register write keeps the protocol. -/
theorem traceKeepsProtocol_write (a : DevAddr) (ptr hi lo : Byte) (ans : BusAnswer) (hp : writablePtr ptr = true)
    (hw : ans.ofWrite = true) : traceKeepsProtocol a [⟨.write a [ptr, hi, lo], ans⟩] = true := by
  simp [traceKeepsProtocol, BusEvent.isRegWrite, hp, hw]

/-- Every answer the model's transport gives to a write is an answer to a write. -/
theorem State.busAnswer_ofWrite (s : State) (a : DevAddr) (bytes : List Byte) :
    (s.busAnswer (.write a bytes)).ofWrite = true := by
  cases h : s.busAnswer (.write a bytes) with
  | ok got => rw [s.busAnswer_write_ok _ _ _ h]; rfl
  | fail e => rfl
  | silent => rfl

/-- Every answer the model's transport gives to a read of one or two bytes is an answer to it. -/
theorem State.busAnswer_ofRead (s : State) (a : DevAddr) (n : Nat) (hn : n = 1 ∨ n = 2) :
    (s.busAnswer (.read a n)).ofRead n = true := by
  cases h : s.busAnswer (.read a n) with
  | ok got => simp [BusAnswer.ofRead, s.busAnswer_read_ok _ _ _ hn h]
  | fail e => rfl
  | silent => rfl

end Sys2Proof.Machine
end

