-- ==== Sys2Proof/Tests/Slice0.lean ====
section
/-! SUPPORT. Tests, each a named theorem: the smoke tests of WellFormed, decoding of words written out bit by bit from spec/30_encoding.md R60 to R63, single operations against spec/95_test_vectors.md, and for every statement with hypotheses a state and operands that meet them. -/

namespace Sys2Proof.Tests

open Sys2Proof.Machine

/-! ### States to test on -/

/-- A block at `0x18` whose transport does as `line` says, with a sensor under no law about to show `reads`. -/
def onOracle (line : List Delivery) (reads : List Half) : State :=
  { State.reset with line := line, sensor := { Sensor.powerOn with model := .oracle reads } }

/-- A block at `0x18` whose transport does as `line` says, with `SimSensor` holding the values of 95_test_vectors.md P3. -/
def onSim (line : List Delivery) (amb : List Half) : State :=
  { State.reset with
    line := line
    sensor := { ptr := 0x00#8, config := 0x0208#16, upperLimit := 0x0000#16, lowerLimit := 0x0000#16,
                critLimit := 0x0000#16, ambient := 0x0194#16, manufId := 0x0054#16, deviceId := 0x1234#16,
                resolution := 0x03#8, model := .sim amb 0x18#7 } }

/-- The state an operation ends in. -/
def after (i : Instr) (s : State) : State :=
  match exec i s with
  | .next t => t
  | .fault _ => s
  | .refused _ => s

/-- The state one step leads to. -/
def stepped (s : State) : State :=
  match step s with
  | .next t => t
  | .fault _ => s
  | .refused _ => s

/-- The step answers a next state. -/
def goesOn (s : State) : Bool :=
  match step s with
  | .next _ => true
  | .fault _ => false
  | .refused _ => false

/-- The responses and the bus trace an operation leaves. -/
def seen (i : Instr) (s : State) : List Response × List BusEvent := ((after i s).responses, (after i s).trace)

def e1 : IoErr := ⟨1⟩
def e2 : IoErr := ⟨2⟩

/-- The two transactions of a register read at `0x18`. -/
def readEvents (ptr : Byte) (bytes : List Byte) : List BusEvent :=
  [⟨.write 0x18#7 [ptr], .ok []⟩, ⟨.read 0x18#7 bytes.length, .ok bytes⟩]

/-! ### Well-formedness: one ill-formed term for each check -/

theorem test_ill_rdreg : (Asm.rdreg 256).wellFormed = false := by decide
theorem test_ill_wrreg_ptr : (Asm.wrreg (-1) 0).wellFormed = false := by decide
theorem test_ill_wrreg_data : (Asm.wrreg 1 65536).wellFormed = false := by decide
theorem test_ill_chkflags_req : (Asm.chkflags 65536 0).wellFormed = false := by decide
theorem test_ill_chkflags_strict : (Asm.chkflags 0 2).wellFormed = false := by decide
theorem test_ill_tosigned_u : (Asm.tosigned 4294967296 13).wellFormed = false := by decide
theorem test_ill_tosigned_w : (Asm.tosigned 0 256).wellFormed = false := by decide
theorem test_ill_tosigned_default : (Asm.tosignedDefault (-1)).wellFormed = false := by decide
theorem test_ill_tounsigned_low : (Asm.tounsigned (-2147483649) 13).wellFormed = false := by decide
theorem test_ill_tounsigned_high : (Asm.tounsigned 2147483648 13).wellFormed = false := by decide
theorem test_ill_tounsigned_w : (Asm.tounsigned 0 256).wellFormed = false := by decide
theorem test_ill_dectemp : (Asm.dectemp 65536).wellFormed = false := by decide
theorem test_ill_enctemp : (Asm.enctemp 2147483648).wellFormed = false := by decide
theorem test_ill_extflags : (Asm.extflags (-1)).wellFormed = false := by decide
theorem test_ill_matchflags_word : (Asm.matchflags 65536 0 0).wellFormed = false := by decide
theorem test_ill_matchflags_req : (Asm.matchflags 0 65536 0).wellFormed = false := by decide
theorem test_ill_matchflags_strict : (Asm.matchflags 0 0 2).wellFormed = false := by decide
theorem test_ill_unpackcfg : (Asm.unpackcfg 65536).wellFormed = false := by decide
theorem test_ill_dechyst : (Asm.dechyst 4).wellFormed = false := by decide
theorem test_ill_decres : (Asm.decres 256).wellFormed = false := by decide
theorem test_well_formed_edges :
    ((Asm.rdreg 255).wellFormed && (Asm.wrreg 0 65535).wellFormed && Asm.gettemp.wellFormed &&
      (Asm.tounsigned (-2147483648) 255).wellFormed && (Asm.enctemp 2147483647).wellFormed &&
      (Asm.dechyst 3).wellFormed && (Asm.chkflags 65535 1).wellFormed) = true := by decide

/-! ### Decoding: words written out bit by bit, `opc` `arg8` `arg32` (R60, R62, R63) -/

theorem test_word_rdreg :
    decode 0b00000001_00001000_00000000_00000000_00000000_00000000#48 = some (.rdreg 8#8) := by decide
theorem test_word_wrreg :
    decode 0b00000010_00000010_00000000_00000000_00000001_11100000#48 = some (.wrreg 2#8 0x01E0#16) := by decide
theorem test_word_gettemp :
    decode 0b00000011_00000000_00000000_00000000_00000000_00000000#48 = some .gettemp := by decide
theorem test_word_chkflags :
    decode 0b00000100_00000001_00000000_00000000_11000000_00000001#48 = some (.chkflags 0xC001#16 true) := by decide
theorem test_word_tosigned :
    decode 0b00000101_00001101_10000000_00000000_00010000_00000001#48 = some (.tosigned 0x80001001#32 13#8) := by decide
theorem test_word_tounsigned :
    decode 0b00000110_00100000_11111111_11111111_11111111_11110000#48 = some (.tounsigned 0xFFFFFFF0#32 32#8) := by decide
theorem test_word_dectemp :
    decode 0b00010000_00000000_00000000_00000000_10011111_11110000#48 = some (.dectemp 0x9FF0#16) := by decide
theorem test_word_enctemp :
    decode 0b00010001_00000000_11111111_11111111_11110000_00000000#48 = some (.enctemp 0xFFFFF000#32) := by decide
theorem test_word_extflags :
    decode 0b00010010_00000000_00000000_00000000_10100001_10010100#48 = some (.extflags 0xA194#16) := by decide
theorem test_word_matchflags :
    decode 0b00010011_00000001_10100000_00000000_10000000_00000000#48
      = some (.matchflags 0xA000#16 0x8000#16 true) := by decide
theorem test_word_unpackcfg :
    decode 0b00100000_00000000_00000000_00000000_10000001_01010101#48 = some (.unpackcfg 0x8155#16) := by decide
theorem test_word_dechyst :
    decode 0b00100001_00000000_00000000_00000000_00000000_00000010#48 = some (.dechyst 2#2) := by decide
theorem test_word_decres :
    decode 0b00100010_00000000_00000000_00000000_00000000_11111100#48 = some (.decres 0xFC#8) := by decide

/-- The illegal words of 95_test_vectors.md 2.7, and the two of 2.5. -/
theorem test_illegal_words :
    [0x000000000000#48, 0x070000000000#48, 0x140000000000#48, 0xFF0000000000#48, 0x030000000001#48,
      0x030100000000#48, 0x010500000001#48, 0x020200010000#48, 0x040200008000#48, 0x040100018000#48,
      0x100100000194#48, 0x110100000000#48, 0x1303A0008000#48, 0x200000010000#48, 0x210000000004#48,
      0x220000000100#48].all (fun cmd => decode cmd == none && opcodeTable.all fun r => !r.matches cmd) = true := by
  decide

/-- The priority pair of 95_test_vectors.md 2.7. -/
theorem test_priority_words :
    decode 0x020500000001#48 = some (.wrreg 5#8 1#16) ∧ decode 0x020500010000#48 = none := by decide

/-- Each opcode-table row's word decodes to its mnemonic, and encoding gives the word back. -/
theorem test_table_rows :
    opcodeTable.all (fun r =>
      match decodeTableWord 48 r.value.toNat with
      | some i => i.mnemonic == r.mnemonic && encode i == r.value
      | none => false) = true := by decide

/-- Each opcode-table row's word is run by the very next step, right after reset. -/
theorem test_table_rows_run :
    opcodeTable.all (fun r => goesOn (State.reset.withFetchWord 48 r.value.toNat)) = true := by decide

/-! ### Text forms (R69, R70) -/

theorem test_text_hex_digits : Text.assembleLine "WRREG CONFIG, 0x07ff" = some 0x0201000007FF#48 := by decide
theorem test_text_names : Text.assembleLine "CHKFLAGS UPPER|LOWER, ANY" = some 0x040000006000#48 := by decide
theorem test_text_refused : Text.assembleLine "DECHYST 4" = none := by decide

/-! ### Single operations, from 95_test_vectors.md -/

theorem test_rdreg_width_two : seen (.rdreg 7#8) (onSim [.carried, .carried] []) =
    ([.ok 0x1234#32], readEvents 7#8 [0x12#8, 0x34#8]) := by decide
theorem test_rdreg_width_one : seen (.rdreg 8#8) (onSim [.carried, .carried] []) =
    ([.ok 3#32], readEvents 8#8 [3#8]) := by decide
theorem test_wrreg_byte_order : seen (.wrreg 2#8 0x01E0#16) (onSim [.carried] []) =
    ([.ok 0#32], [⟨.write 0x18#7 [0x02#8, 0x01#8, 0xE0#8], .ok []⟩]) := by decide
theorem test_wrreg_read_only : seen (.wrreg 8#8 3#16) (onSim [] []) = ([.error .invalidArgument], []) := by decide
theorem test_gettemp_negative : seen .gettemp (onOracle [.carried, .carried] [0x3FF0#16]) =
    ([.ok 0xFFFFFFF0#32], readEvents 5#8 [0x3F#8, 0xF0#8]) := by decide
theorem test_gettemp_select_fails : seen .gettemp (onOracle [.failed e1] []) =
    ([.error (.ioError e1)], [⟨.write 0x18#7 [5#8], .fail e1⟩]) := by decide
theorem test_chkflags_strict : seen (.chkflags 0xC000#16 true) (onOracle [.carried, .carried] [0xA194#16]) =
    ([.ok 0#32], readEvents 5#8 [0xA1#8, 0x94#8]) := by decide
theorem test_chkflags_any : seen (.chkflags 0x6000#16 false) (onOracle [.carried, .carried] [0xA194#16]) =
    ([.ok 1#32], readEvents 5#8 [0xA1#8, 0x94#8]) := by decide
theorem test_tosigned_thirteen : seen (.tosigned 4096#32 13#8) State.reset = ([.ok 0xFFFFF000#32], []) := by decide
theorem test_tosigned_no_i32 : seen (.tosigned 0x80000000#32 13#8) State.reset = ([.error .illegalCommand], []) := by
  decide
theorem test_tounsigned_negative : seen (.tounsigned 0xFFFFFFF0#32 13#8) State.reset = ([.ok 0x1FF0#32], []) := by decide
theorem test_tounsigned_edge : seen (.tounsigned 0x00001000#32 13#8) State.reset = ([.error .illegalCommand], []) := by
  decide
theorem test_dectemp_flags_masked : seen (.dectemp 0xA194#16) State.reset = ([.ok 404#32], []) := by decide
theorem test_dectemp_negative : seen (.dectemp 0x1FF0#16) State.reset = ([.ok 0xFFFFFFF0#32], []) := by decide
theorem test_enctemp_lowest : seen (.enctemp 0xFFFFF000#32) State.reset = ([.ok 0x1000#32], []) := by decide
theorem test_enctemp_below : seen (.enctemp 0xFFFFEFFF#32) State.reset = ([.error .illegalCommand], []) := by decide
theorem test_extflags : seen (.extflags 0xA194#16) State.reset = ([.ok 0xA000#32], []) := by decide
theorem test_matchflags_field_bits : seen (.matchflags 0xA194#16 0x8194#16 true) State.reset = ([.ok 0#32], []) := by
  decide
theorem test_matchflags_overlap : seen (.matchflags 0xA194#16 0x8194#16 false) State.reset = ([.ok 1#32], []) := by
  decide
theorem test_unpackcfg_high_bits : seen (.unpackcfg 0xFFFF#16) State.reset = ([.ok 0x07FF#32], []) := by decide
theorem test_unpackcfg_fields : seen (.unpackcfg 0x02AA#16) State.reset = ([.ok 0x02AA#32], []) := by decide
theorem test_dechyst : seen (.dechyst 2#2) State.reset = ([.ok 48#32], []) := by decide
theorem test_decres_high_bits : seen (.decres 0xFC#8) State.reset = ([.ok 8#32], []) := by decide

/-! ### Witnesses: for every statement with hypotheses, states and operands that meet them, clause by clause -/

/-- A block with one command to take. -/
def sending (cmd : CmdWord) (s : State) : State := { s with program := [cmd] }

theorem witness_StepRunsTheDecodedCommand :
    let s := sending 0x030000000000#48 (onSim [] [])
    s.contention = none ∧ s.waiting = none ∧ s.program = 0x030000000000#48 :: [] ∧
      decode 0x030000000000#48 = some .gettemp := by decide

theorem witness_TableWordRunsNext : decodeTableWord 48 0x0202000001E0 = some (.wrreg 2#8 0x01E0#16) := by decide

theorem witness_IllegalWordIsAnsweredIllegalCommand :
    let s := sending 0x070000000000#48 State.reset
    s.contention = none ∧ s.waiting = none ∧ s.program = 0x070000000000#48 :: [] ∧
      ∀ r ∈ opcodeTable, 0x070000000000#48 &&& r.mask ≠ r.value := by decide

theorem witness_NoCommandChangesNothing :
    State.reset.contention = none ∧ State.reset.waiting = none ∧ State.reset.program = [] := by decide

theorem witness_StepStopsOnlyWhenHungOrOutOfContract :
    (State.reset.contention = none ∧ State.reset.waiting = none) ∧
    (let c := BusCall.write 0x18#7 [5#8]
     let s := { State.reset with waiting := some c }
     s.contention = none ∧ s.waiting = some c) ∧
    ({ State.reset with contention := some (.secondCommand 0#48) }).contention = some (.secondCommand 0#48) ∧
    ({ State.reset with contention := some .secondOwner }).contention = some .secondOwner := by decide

/-- Both ends of a command: it is answered; or a call is never answered. -/
theorem witness_EveryCommandGetsOneResponse :
    (let s := sending 0x010000000000#48 State.reset
     s.contention = none ∧ s.waiting = none ∧ s.program = 0x010000000000#48 :: [] ∧
       (stepped s).waiting = none ∧ (stepped s).responses = [.error .invalidArgument]) ∧
    (let s := sending 0x030000000000#48 (onOracle [.silent] [])
     s.contention = none ∧ s.waiting = none ∧ s.program = 0x030000000000#48 :: [] ∧
       (stepped s).waiting = some (.write 0x18#7 [5#8]) ∧ (stepped s).responses = []) := by decide

theorem witness_EncodeOfDecodeIsTheWord :
    decode 0x1301A0008000#48 = some (.matchflags 0xA000#16 0x8000#16 true) := by decide

theorem witness_AtMostOneRowMatches :
    let r : OpcodeRow := ⟨"DECHYST", 0x210000000000#48, 0xFFFFFFFFFFFC#48⟩
    r ∈ opcodeTable ∧ 0x210000000003#48 &&& r.mask = r.value := by decide

/-- One word for each constructor, all operand bits set. -/
theorem witness_OperandsAreTheSlicesOfTheWord :
    decode 0x01FF00000000#48 = some (.rdreg 255#8) ∧
    decode 0x02FF0000FFFF#48 = some (.wrreg 255#8 0xFFFF#16) ∧
    decode 0x030000000000#48 = some .gettemp ∧
    decode 0x04010000FFFF#48 = some (.chkflags 0xFFFF#16 true) ∧
    decode 0x05FFFFFFFFFF#48 = some (.tosigned 0xFFFFFFFF#32 255#8) ∧
    decode 0x06FFFFFFFFFF#48 = some (.tounsigned 0xFFFFFFFF#32 255#8) ∧
    decode 0x10000000FFFF#48 = some (.dectemp 0xFFFF#16) ∧
    decode 0x1100FFFFFFFF#48 = some (.enctemp 0xFFFFFFFF#32) ∧
    decode 0x12000000FFFF#48 = some (.extflags 0xFFFF#16) ∧
    decode 0x1301FFFFFFFF#48 = some (.matchflags 0xFFFF#16 0xFFFF#16 true) ∧
    decode 0x20000000FFFF#48 = some (.unpackcfg 0xFFFF#16) ∧
    decode 0x210000000003#48 = some (.dechyst 3#2) ∧
    decode 0x2200000000FF#48 = some (.decres 0xFF#8) := by decide

/-- Widths 1 and 32 complete; widths 0 and 33, and results just outside `i32` on either side, are refused. -/
theorem witness_TosignedDecodesOrRefuses :
    seen (.tosigned 1#32 1#8) State.reset = ([.ok 0xFFFFFFFF#32], []) ∧
    seen (.tosigned 0x80000000#32 32#8) State.reset = ([.ok 0x80000000#32], []) ∧
    seen (.tosigned 1#32 0#8) State.reset = ([.error .illegalCommand], []) ∧
    seen (.tosigned 1#32 33#8) State.reset = ([.error .illegalCommand], []) ∧
    seen (.tosigned 0x80000000#32 31#8) State.reset = ([.error .illegalCommand], []) ∧
    seen (.tosigned 0x7FFFFFFF#32 32#8) State.reset = ([.ok 0x7FFFFFFF#32], []) := by decide

/-- Widths 1 and 32 complete at both ends of their ranges; one value further, and widths 0 and 33, are refused. -/
theorem witness_TounsignedEncodesOrRefuses :
    seen (.tounsigned 0xFFFFFFFF#32 1#8) State.reset = ([.ok 1#32], []) ∧
    seen (.tounsigned 0x80000000#32 32#8) State.reset = ([.ok 0x80000000#32], []) ∧
    seen (.tounsigned 0x7FFFFFFF#32 32#8) State.reset = ([.ok 0x7FFFFFFF#32], []) ∧
    seen (.tounsigned 1#32 1#8) State.reset = ([.error .illegalCommand], []) ∧
    seen (.tounsigned 0xFFFFFFFE#32 1#8) State.reset = ([.error .illegalCommand], []) ∧
    seen (.tounsigned 0#32 0#8) State.reset = ([.error .illegalCommand], []) ∧
    seen (.tounsigned 0#32 33#8) State.reset = ([.error .illegalCommand], []) := by decide

theorem witness_TounsignedUndoesTosigned :
    (1 ≤ (1#8).toNat ∧ (1#8).toNat ≤ 32 ∧ (1#32).toNat < 2 ^ (1#8).toNat) ∧
    (1 ≤ (32#8).toNat ∧ (32#8).toNat ≤ 32 ∧ (0xFFFFFFFF#32).toNat < 2 ^ (32#8).toNat) := by decide

theorem witness_TosignedUndoesTounsigned :
    (1 ≤ (1#8).toNat ∧ (1#8).toNat ≤ 32 ∧ -2 ^ ((1#8).toNat - 1) ≤ (0xFFFFFFFF#32).toInt ∧
      (0xFFFFFFFF#32).toInt ≤ 2 ^ ((1#8).toNat - 1) - 1) ∧
    (1 ≤ (32#8).toNat ∧ (32#8).toNat ≤ 32 ∧ -2 ^ ((32#8).toNat - 1) ≤ (0x80000000#32).toInt ∧
      (0x80000000#32).toInt ≤ 2 ^ ((32#8).toNat - 1) - 1) := by decide

theorem witness_TosignedIsTheTwosComplementBijection :
    (1 ≤ (13#8).toNat ∧ (13#8).toNat ≤ 32) ∧ (8191#32).toNat < 2 ^ (13#8).toNat ∧
    (-2 ^ ((13#8).toNat - 1) ≤ (-4096 : Int) ∧ (-4096 : Int) ≤ 2 ^ ((13#8).toNat - 1) - 1) ∧
    seen (.tosigned 8191#32 13#8) State.reset = ([.ok 0xFFFFFFFF#32], []) := by decide

theorem witness_EnctempEncodesOrRefuses :
    (-4096 ≤ (0xFFFFF000#32).toInt ∧ (0xFFFFF000#32).toInt ≤ 4095) ∧
    (-4096 ≤ (4095#32).toInt ∧ (4095#32).toInt ≤ 4095) ∧
    (0xFFFFEFFF#32).toInt < -4096 ∧ 4095 < (4096#32).toInt := by decide

theorem witness_TemperatureCodecRoundTrips :
    (-4096 ≤ (0xFFFFF000#32).toInt ∧ (0xFFFFF000#32).toInt ≤ 4095) ∧
    (-4096 ≤ (4095#32).toInt ∧ (4095#32).toInt ≤ 4095) := by decide

/-- The ambient select write and the state after it. -/
def selectAmbient : BusCall := .write 0x18#7 [5#8]

/-- Select write failed; read failed; both carried. The same states serve CHKFLAGS. -/
theorem witness_GettempReadsAndDecodes_and_ChkflagsReadsAndCompares :
    (onOracle [.failed e1] []).busAnswer selectAmbient = .fail e1 ∧
    (let s := onOracle [.carried, .failed e2] []
     s.busAnswer selectAmbient = .ok [] ∧ (s.afterCall selectAmbient).busAnswer (.read 0x18#7 2) = .fail e2) ∧
    (let s := onOracle [.carried, .carried] [0xA194#16]
     s.busAnswer selectAmbient = .ok [] ∧
       (s.afterCall selectAmbient).busAnswer (.read 0x18#7 2) = .ok [0xA1#8, 0x94#8]) := by decide

/-- All bits requested set; one not set; some set; none set; and the empty request for the two universal clauses. -/
theorem witness_MatchflagsComparesAllOfOrAnyOf :
    (∀ k < 16, (0xA000#16).getLsbD k = true → 13 ≤ k ∧ (0xA194#16).getLsbD k = true) ∧
    (∃ k < 16, (0xC000#16).getLsbD k = true ∧ ¬ (13 ≤ k ∧ (0xA194#16).getLsbD k = true)) ∧
    (∃ k < 16, (0xC000#16).getLsbD k = true ∧ 13 ≤ k ∧ (0xA194#16).getLsbD k = true) ∧
    (∀ k < 16, (0x4194#16).getLsbD k = true → ¬ (13 ≤ k ∧ (0xA194#16).getLsbD k = true)) ∧
    (∀ k < 16, (0#16).getLsbD k = true → 13 ≤ k ∧ (0xA194#16).getLsbD k = true) := by decide

theorem witness_MatchflagsCornerCases :
    0x8194#16 &&& 0x1FFF#16 ≠ 0#16 ∧ 0xA000#16 ≠ 0#16 ∧
    exec (.matchflags 0xA194#16 0xA000#16 true) State.reset =
      .next { State.reset with responses := State.reset.responses ++ [.ok 1#32] } := by
  refine ⟨by decide, by decide, rfl⟩

/-- Pointers 0, 9 and 255 are refused; 1 and 8 are read: select write failed, read failed, read done. -/
theorem witness_RdregReadsTheRegister :
    ((0#8).toNat < 0x01 ∧ 0x08 < (9#8).toNat ∧ 0x08 < (255#8).toNat) ∧
    (onOracle [.failed e1] []).busAnswer (.write 0x18#7 [1#8]) = .fail e1 ∧
    (let s := onOracle [.carried, .failed e2] []
     s.busAnswer (.write 0x18#7 [8#8]) = .ok [] ∧
       (s.afterCall (.write 0x18#7 [8#8])).busAnswer (.read 0x18#7 1) = .fail e2) ∧
    (let s := onOracle [.carried, .carried] [0x0208#16]
     s.busAnswer (.write 0x18#7 [1#8]) = .ok [] ∧
       (s.afterCall (.write 0x18#7 [1#8])).busAnswer (.read 0x18#7 2) = .ok [0x02#8, 0x08#8]) ∧
    (let s := onOracle [.carried, .carried] [0x0003#16]
     s.busAnswer (.write 0x18#7 [8#8]) = .ok [] ∧
       (s.afterCall (.write 0x18#7 [8#8])).busAnswer (.read 0x18#7 1) = .ok [3#8]) := by decide

/-- Pointers 1 and 7 for the two-byte clause, 8 for the one-byte clause. -/
theorem witness_RdregAnswersTheWordShown :
    let s := onOracle [.carried, .carried] [0x1234#16]
    s.line = .carried :: .carried :: [] ∧ s.sensor.model = .oracle (0x1234#16 :: []) ∧
    seen (.rdreg 1#8) s = ([.ok 0x1234#32], readEvents 1#8 [0x12#8, 0x34#8]) ∧
    seen (.rdreg 7#8) s = ([.ok 0x1234#32], readEvents 7#8 [0x12#8, 0x34#8]) ∧
    seen (.rdreg 8#8) s = ([.ok 0x34#32], readEvents 8#8 [0x34#8]) := by decide

/-- Pointers 0, 5 and 8 are refused; 1 and 4 are written: failed and done. -/
theorem witness_WrregWritesTheRegister :
    ((0#8).toNat < 0x01 ∧ 0x04 < (5#8).toNat ∧ 0x04 < (8#8).toNat) ∧
    (onOracle [.failed e1] []).busAnswer (.write 0x18#7 [1#8, 0x02#8, 0x08#8]) = .fail e1 ∧
    (onOracle [.carried] []).busAnswer (.write 0x18#7 [4#8, 0x05#8, 0x00#8]) = .ok [] := by decide

theorem witness_TransportCallIsAnsweredAndRecorded :
    (onOracle [.failed e1] []).delivery = .failed e1 ∧ (onOracle [.silent] []).delivery = .silent ∧
    (onOracle [.carried] [7#16]).delivery = .carried ∧ (onOracle [.carried] [7#16]).sensor.model = .oracle [7#16] ∧
    (onOracle [.silent] []).busAnswer selectAmbient = .silent ∧
    (onOracle [.carried] []).busAnswer selectAmbient ≠ .silent := by decide

/-- Two sensors about to show different words, one of them with no word listed. -/
theorem witness_OracleReadDeterminesNothingAfterwards :
    let s := onOracle [.carried] [0x0208#16]
    let s' := onOracle [.carried] []
    s.delivery = .carried ∧ s'.delivery = .carried ∧ s.draws = s'.draws ∧
      s.sensor.model = .oracle [0x0208#16] ∧ s'.sensor.model = .oracle [] ∧
      [0x0208#16].tail = ([] : List Half).tail ∧ s.busAnswer (.read 0x18#7 1) = .ok [0x08#8] := by decide

theorem witness_SimSensorIsUntouchedByFailedCalls :
    (onSim [.carried] [5#16]).sensor.model = .sim [5#16] 0x18#7 ∧ (onSim [.silent] []).delivery ≠ .carried ∧
    (onSim [.failed e1] []).delivery ≠ .carried ∧ (onSim [.carried] []).delivery = .carried ∧
    (BusCall.write 0x19#7 [5#8]).addr ≠ 0x18#7 := by decide

/-- The program P2 of 95_test_vectors.md, steps 2 and 5, and the last writable register. -/
theorem witness_SimSensorReadsBackAWrite :
    let s := onSim [.carried, .carried, .carried] []
    s.sensor.model = .sim [] s.devAddr ∧ s.line = .carried :: .carried :: .carried :: [] ∧
    (after (.rdreg 3#8) (after (.wrreg 3#8 0x1FF0#16) s)).responses = [.ok 0#32, .ok 0x1FF0#32] ∧
    (after (.rdreg 4#8) (after (.wrreg 4#8 0x0500#16) s)).responses = [.ok 0#32, .ok 0x0500#32] := by decide

theorem witness_SimSensorShowsSuccessiveSamples :
    (let s := onSim [.carried, .carried] [0x1FF0#16, 0x3FF0#16]
     s.line = .carried :: .carried :: [] ∧ s.sensor.model = .sim (0x1FF0#16 :: [0x3FF0#16]) s.devAddr ∧
       (after .gettemp s).sensor.ambient = 0x1FF0#16) ∧
    (let s := onSim [.carried, .carried] []
     s.line = .carried :: .carried :: [] ∧ s.sensor.model = .sim [] s.devAddr ∧ s.sensor.ambient = 0x0194#16 ∧
       (after .gettemp s).responses = [.ok 0x194#32]) := by decide

/-- The select write of each reading operation, the read, and WRREG's one transaction, none of them answered. -/
theorem witness_UnansweredCallHangsTheBlock :
    State.reset.contention = none ∧
    (onOracle [.silent] []).busAnswer (.write 0x18#7 [5#8]) = .silent ∧
    (onOracle [.silent] []).busAnswer (.write 0x18#7 [8#8]) = .silent ∧
    (let s := onOracle [.carried, .silent] []
     s.busAnswer (.write 0x18#7 [5#8]) = .ok [] ∧
       (s.afterCall (.write 0x18#7 [5#8])).busAnswer (.read 0x18#7 2) = .silent) ∧
    (let s := onOracle [.carried, .silent] []
     s.busAnswer (.write 0x18#7 [8#8]) = .ok [] ∧
       (s.afterCall (.write 0x18#7 [8#8])).busAnswer (.read 0x18#7 1) = .silent) ∧
    (onOracle [.silent] []).busAnswer (.write 0x18#7 [1#8, 0x02#8, 0x08#8]) = .silent := by decide

theorem witness_InvalidArgumentComesOnlyFromPointerChecks :
    exec (.rdreg 9#8) State.reset = .next (after (.rdreg 9#8) State.reset) ∧
    (after (.rdreg 9#8) State.reset).responses = State.reset.responses ++ [.error .invalidArgument] ∧
    exec (.wrreg 5#8 0#16) State.reset = .next (after (.wrreg 5#8 0#16) State.reset) ∧
    (after (.wrreg 5#8 0#16) State.reset).responses = State.reset.responses ++ [.error .invalidArgument] :=
  ⟨rfl, rfl, rfl, rfl⟩

/-- From the decoder and from each of the three operations. -/
theorem witness_IllegalCommandMakesNoTransportCall :
    [0x070000000000#48, 0x050000000001#48, 0x060000000000#48, 0x110000001000#48].all (fun cmd =>
      let s := sending cmd State.reset
      s.contention == none && s.waiting == none && s.program == [cmd] && goesOn s &&
        (stepped s).responses == s.responses ++ [.error .illegalCommand]) = true := by decide

theorem witness_IoErrorExactlyWhenACallFails :
    let s := onOracle [.carried, .failed e2] []
    exec .gettemp s = .next (after .gettemp s) ∧
    (after .gettemp s).responses = s.responses ++ [.error (.ioError e2)] ∧
    (after .gettemp s).trace = s.trace ++ ([⟨selectAmbient, .ok []⟩] ++ [⟨.read 0x18#7 2, .fail e2⟩]) :=
  ⟨rfl, rfl, rfl⟩

/-- One operation that may refuse and one that never does. -/
theorem witness_PureOperationsOnlyRespond :
    [Instr.tosigned 0#32 33#8, Instr.dechyst 3#2].all (fun i =>
      match i with
      | .rdreg _ => false
      | .wrreg _ _ => false
      | .gettemp => false
      | .chkflags _ _ => false
      | _ => true) = true := by decide

/-- A step that moves nothing, one that selects only, one that reads, one that writes. -/
theorem witness_OneStepMovesOneWholeRegister :
    (stepped (sending 0x100000000194#48 State.reset)).trace = [] ∧
    (stepped (sending 0x010800000000#48 (onOracle [.failed e1] []))).trace = [⟨.write 0x18#7 [8#8], .fail e1⟩] ∧
    (stepped (sending 0x010800000000#48 (onOracle [.carried, .carried] [3#16]))).trace = readEvents 8#8 [3#8] ∧
    (stepped (sending 0x020400000500#48 (onOracle [.carried] []))).trace =
      [⟨.write 0x18#7 [4#8, 0x05#8, 0x00#8], .ok []⟩] := by decide

/-- Two runs that differ only in how the second call goes, and two on different sensors that answer alike. -/
theorem witness_SameCommandSameTransactions :
    (let s := onOracle [.carried, .carried] [0xA194#16]
     let s' := onOracle [.carried, .failed e2] []
     s.devAddr = s'.devAddr ∧ exec .gettemp s = .next (after .gettemp s) ∧ exec .gettemp s' = .next (after .gettemp s')) ∧
    (let s := onOracle [.carried, .carried] [0xA194#16]
     let s' := onSim [.carried, .carried] [0xA194#16]
     s.devAddr = s'.devAddr ∧ (after .gettemp s).trace = (after .gettemp s').trace) :=
  ⟨⟨rfl, rfl, rfl⟩, rfl, rfl⟩

/-- A state with a trace of each kind of sequence keeps the protocol, and its step is a next state. -/
theorem witness_EveryStepKeepsTheBusProtocol :
    let s := { sending 0x030000000000#48 (onOracle [.carried, .carried] [0xA194#16]) with
      trace := readEvents 8#8 [3#8] ++ [⟨.write 0x18#7 [1#8], .fail e1⟩, ⟨.write 0x18#7 [4#8, 0#8, 0#8], .ok []⟩] }
    s.protocolOk = true ∧ goesOn s = true ∧ (stepped s).protocolOk = true := by decide

/-- What the protocol rules out: a read without its select write, a select write without its read, and a read of one
byte where the register is two bytes wide. -/
theorem test_protocol_rules_out :
    traceKeepsProtocol 0x18#7 [⟨.read 0x18#7 2, .ok [0#8, 0#8]⟩] = false ∧
    traceKeepsProtocol 0x18#7 [⟨.write 0x18#7 [5#8], .ok []⟩] = false ∧
    traceKeepsProtocol 0x18#7 (readEvents 5#8 [3#8]) = false := by decide

end Sys2Proof.Tests
end

section
/-! What one step puts on the bus (20_memory.md R47): an inversion of `step`, the traffic of one register access, and that every
step makes such traffic. -/

namespace Sys2Proof.Machine

/-- Every command word is answered with a next state: a legal one ends as its operation does, any other with a response alone. -/
theorem runCommand_ends (cmd : CmdWord) (s : State) : ∃ t, runCommand cmd s = .next t ∧ Ends s t := by
  unfold runCommand
  split
  next i _ => exact exec_ends i s
  next => exact ⟨_, rfl, .pure (.error .illegalCommand) (by simp)⟩

/-- A step that goes on starts in contract and waits for nothing; with no command it changes nothing, else it takes the command. -/
theorem step_next_cases (s t : State) (h : step s = .next t) :
    s.contention = none ∧ s.waiting = none ∧
      ((s.program = [] ∧ t = s) ∨ ∃ cmd rest, s.program = cmd :: rest ∧ runCommand cmd s.sent = .next t) := by
  unfold step takeCommand at h
  split at h
  next => cases h
  next hc =>
    split at h
    next => cases h
    next hw =>
      refine ⟨hc, hw, ?_⟩
      split at h
      next hp => exact .inl ⟨hp, (Host.Outcome.next.inj h).symm⟩
      next cmd rest hp => exact .inr ⟨cmd, rest, hp, h⟩

/-- The traffic of at most one register access at device `a`, in the model's own terms: nothing; a select write alone; a select
write that succeeded and the read of the register's width (R43); a register write (R44). -/
inductive OneRegisterMoved (a : DevAddr) : List BusEvent → Prop
  | nothing : OneRegisterMoved a []
  | selected (ptr : Byte) (ans : BusAnswer) (hp : validPtr ptr = true) :
      OneRegisterMoved a [⟨.write a [ptr], ans⟩]
  | read (ptr : Byte) (ans : BusAnswer) (hp : validPtr ptr = true) (hr : ans.ofRead (ptrWidth ptr) = true) :
      OneRegisterMoved a [⟨.write a [ptr], .ok []⟩, ⟨.read a (ptrWidth ptr), ans⟩]
  | written (ptr hi lo : Byte) (ans : BusAnswer) (hp : writablePtr ptr = true) :
      OneRegisterMoved a [⟨.write a [ptr, hi, lo], ans⟩]

/-- After a select write that succeeded, the read that follows completes one register access, however it is answered. -/
theorem selectThenRead_moves_one_register (s : State) (ptr : Byte) (hp : validPtr ptr = true)
    (h : s.busAnswer (selectCall s ptr) = .ok []) :
    ∃ made, ((s.afterCall (selectCall s ptr)).afterCall (readCall s ptr)).trace = s.trace ++ made ∧
      OneRegisterMoved s.devAddr made := by
  have hr := (s.afterCall (selectCall s ptr)).busAnswer_ofRead s.devAddr _ (ptrWidth_one_or_two ptr)
  refine ⟨_, ?_, .read ptr _ hp hr⟩
  rw [State.afterCall_trace, State.afterCall_trace, h, List.append_assoc]
  rfl

/-- However an operation ends, it has moved at most one register. A response adds nothing to the trace. -/
theorem Ends.moves_one_register {s t : State} (ends : Ends s t) :
    ∃ made, t.trace = s.trace ++ made ∧ OneRegisterMoved s.devAddr made := by
  cases ends with
  | pure r _ => exact ⟨[], by simp, .nothing⟩
  | selectFailed ptr _ hp _ | selectHung ptr hp _ => exact ⟨_, rfl, .selected ptr _ hp⟩
  | readFailed ptr _ hp h _ | readHung ptr hp h _ | readDone ptr _ _ hp h _ =>
    exact selectThenRead_moves_one_register s ptr hp h
  | writeFailed ptr _ _ hp _ | writeHung ptr _ hp _ | writeDone ptr _ hp _ => exact ⟨_, rfl, .written ptr _ _ _ hp⟩

/-- Sending a command touches neither the trace nor the device address, so a step moves what its operation moves. -/
theorem step_moves_one_register (s t : State) (h : step s = .next t) :
    ∃ made, t.trace = s.trace ++ made ∧ OneRegisterMoved s.devAddr made := by
  obtain ⟨-, -, ⟨-, rfl⟩ | ⟨cmd, rest, -, hrun⟩⟩ := step_next_cases s t h
  · exact ⟨[], by simp, .nothing⟩
  · obtain ⟨t', ht', ends⟩ := runCommand_ends cmd s.sent
    obtain rfl := Host.Outcome.next.inj (ht'.symm.trans hrun)
    exact ends.moves_one_register

end Sys2Proof.Machine

open Sys2Proof Sys2Proof.Machine

/-- Settles O50: every way a step can end moves at most one whole register, with pointers and widths as R15 and R26 give them. -/
theorem oneStepMovesOneWholeRegister : Obligations.OneStepMovesOneWholeRegister := by
  intro s t hstep
  obtain ⟨made, htrace, moved⟩ := step_moves_one_register s t hstep
  refine ⟨made, htrace, ?_⟩
  cases moved with
  | nothing => exact .inl rfl
  | selected ptr ans hp =>
    obtain ⟨low, high⟩ := (validPtr_iff ptr).mp hp
    exact .inr (.inl ⟨ptr, ans, low, high, rfl⟩)
  | read ptr ans hp hr =>
    obtain ⟨low, high⟩ := (validPtr_iff ptr).mp hp
    rw [ptrWidth_eq ptr high] at hr ⊢
    refine .inr (.inr (.inl ⟨ptr, ans, low, high, rfl, ?_⟩))
    rintro bytes rfl
    exact beq_iff_eq.mp hr
  | written ptr hi lo ans hp =>
    obtain ⟨low, high⟩ := (writablePtr_iff ptr).mp hp
    exact .inr (.inr (.inr ⟨ptr, hi, lo, ans, low, high, rfl⟩))
end

section
/-! DECTEMP of every word (41_temperature.md R91), and TOSIGNED of the masked word at width 13 (43_signed_helpers.md R113 (e)). -/

namespace Sys2Proof.Machine

/-- DECTEMP answers the 32 bits of the decoded count, for every word (R91). -/
theorem exec_dectemp (word : Half) (s : State) :
    exec (.dectemp word) s = .next (s.respond (.ok (i32Bits (decTemp word)))) := by
  rfl

/-- Where TOSIGNED has a value, it responds with that value's 32 bits (R110). -/
theorem exec_tosigned_of_eq_some {u : Word} {w : Byte} {r : Int} (s : State) (h : toSigned u w = some r) :
    exec (.tosigned u w) s = .next (s.respond (.ok (i32Bits r))) := by
  change Host.Outcome.next (s.answer ((toSigned u w).map i32Bits)) = _
  rw [h]
  rfl

/-- The sign test of TOSIGNED at width 13 is DECTEMP's: bit 12 of the masked word. -/
theorem signedValue_masked (word : Half) :
    signedValue ((word &&& magMask).setWidth 32) 13#8 = decTemp word := by
  have bit12 : ((word &&& magMask).setWidth 32).getLsbD 12 = (word &&& magMask).getLsbD 12 := by
    simp
  have value : ((word &&& magMask).setWidth 32).toNat = (word &&& magMask).toNat :=
    BitVec.toNat_setWidth_of_le (by decide)
  change (if ((word &&& magMask).setWidth 32).getLsbD 12 then
    (((word &&& magMask).setWidth 32).toNat : Int) - pow2 13 else _) = _
  rw [bit12, value]
  rfl

/-- TOSIGNED of a masked word at width 13 never refuses: it has the decoded count as its value. -/
theorem toSigned_masked (word : Half) :
    toSigned ((word &&& magMask).setWidth 32) 13#8 = some (decTemp word) := by
  obtain ⟨low, high⟩ := decTemp_range word
  exact (toSigned_eq_some_iff ..).mpr
    ⟨by decide, by decide, (signedValue_masked word).symm, by omega, by omega⟩

/-- DECTEMP of a word is TOSIGNED of the masked word at width 13, in every state (R113 (e)). -/
theorem exec_dectemp_eq_exec_tosigned (word : Half) (s : State) :
    exec (.dectemp word) s = exec (.tosigned ((word &&& magMask).setWidth 32) 13#8) s := by
  rw [exec_dectemp, exec_tosigned_of_eq_some s (toSigned_masked word)]

/-- The sign extension of bits 12:0, read as an integer, is the decoded count. -/
theorem toInt_signExtend_field (word : Half) :
    ((word.extractLsb' 0 13).signExtend 32).toInt = decTemp word := by
  obtain ⟨low, high⟩ := decTemp_range word
  rw [← i32Bits_decTemp, i32Bits_toInt _ (by omega) (by omega)]

end Sys2Proof.Machine

open Sys2Proof Sys2Proof.Machine

/-- Settles O22: the response is the decoded count, whose bits are the sign extension of the field and whose value is TOSIGNED's at
width 13. -/
theorem dectempDecodesEveryWord : Obligations.DectempDecodesEveryWord := by
  intro s word
  refine ⟨?response, ?value, ?helper⟩
  case response => rw [exec_dectemp, i32Bits_decTemp]; rfl
  case value => rw [toInt_signExtend_field, decTemp_eq]
  case helper => exact exec_dectemp_eq_exec_tosigned word s
end

section
/-! EXTFLAGS of every word (42_alert_flags.md R101): the flags bit by bit, and the word back from the flags and the masked-out field. -/

namespace Sys2Proof.Machine

/-- EXTFLAGS answers the flags of the word, zero-extended, for every word (R101). -/
theorem exec_extflags (word : Half) (s : State) :
    exec (.extflags word) s = .next (s.respond (.ok (zext32 (extFlags word)))) := by
  rfl

/-- The flag mask is bits 15:13. -/
theorem flagMask_getLsbD : ∀ k < 16, flagMask.getLsbD k = decide (13 ≤ k) := by decide

/-- A flag keeps its position, and no bit below 13 is kept (R101). -/
theorem extFlags_getLsbD (word : Half) (k : Nat) (hk : k < 16) :
    (extFlags word).getLsbD k = (decide (13 ≤ k) && word.getLsbD k) := by
  rw [extFlags, BitVec.getLsbD_and, flagMask_getLsbD k hk, Bool.and_comm]

/-- The flag mask and the field mask cover the word between them, so what the two keep is the whole word. -/
theorem extFlags_or_field (word : Half) : extFlags word ||| (word &&& magMask) = word := by
  have cover : flagMask ||| magMask = BitVec.allOnes 16 := by decide
  rw [extFlags, ← BitVec.and_or_distrib_left, cover, BitVec.and_allOnes]

end Sys2Proof.Machine

open Sys2Proof Sys2Proof.Machine

/-- Settles O28: the response is the word under the flag mask, which is bits 15:13 and complements the field mask. -/
theorem extflagsKeepsOnlyTheFlags : Obligations.ExtflagsKeepsOnlyTheFlags := by
  intro s word
  exact ⟨extFlags word, exec_extflags word s, extFlags_eq word, extFlags_or_field word, extFlags_getLsbD word⟩
end

section
/-! What each error kind says of the bus (60_exceptions.md R132, R133): which calls an operation makes before each way it can end, and
that the pointer checks alone give `InvalidArgument`. -/

namespace Sys2Proof.Machine

/-! ### IoError (R132) -/

/-- The calls an operation makes with the responses it gives: every call before the last succeeded, and a failed last call gives its
error, an unanswered one gives nothing, and without either there is one response that is no `IoError`. -/
inductive CallsGive : List BusEvent → List Response → Prop
  | answered (made : List BusEvent) (r : Response) (ok : ∀ x ∈ made, x.answer.isOk = true)
      (hr : ∀ e, r ≠ .error (.ioError e)) : CallsGive made [r]
  | failed (made : List BusEvent) (c : BusCall) (e : IoErr) (ok : ∀ x ∈ made, x.answer.isOk = true) :
      CallsGive (made ++ [⟨c, .fail e⟩]) [.error (.ioError e)]
  | unanswered (made : List BusEvent) (c : BusCall) (ok : ∀ x ∈ made, x.answer.isOk = true) :
      CallsGive (made ++ [⟨c, .silent⟩]) []

/-- A select write that succeeded and then a read: both are in the trace, in order (R43). -/
theorem trace_selectThenRead (s : State) (ptr : Byte) (ans : BusAnswer) (h : s.busAnswer (selectCall s ptr) = .ok [])
    (h2 : (s.afterCall (selectCall s ptr)).busAnswer (readCall s ptr) = ans) :
    ((s.afterCall (selectCall s ptr)).afterCall (readCall s ptr)).trace =
      s.trace ++ ([⟨selectCall s ptr, .ok []⟩] ++ [⟨readCall s ptr, ans⟩]) := by
  rw [State.afterCall_trace, State.afterCall_trace, h, h2, List.append_assoc]

/-- However an operation ends, its calls and its responses are so related. -/
theorem Ends.callsGive {s t : State} (ends : Ends s t) :
    ∃ made given, t.trace = s.trace ++ made ∧ t.responses = s.responses ++ given ∧ CallsGive made given := by
  cases ends with
  | pure r hr => exact ⟨[], [r], by simp, rfl, .answered [] r (by simp) hr⟩
  | selectFailed ptr e _ h => exact ⟨_, _, by simp [h], rfl, .failed [] (selectCall s ptr) e (by simp)⟩
  | selectHung ptr _ h => exact ⟨_, _, by simp [h], by simp, .unanswered [] (selectCall s ptr) (by simp)⟩
  | readFailed ptr e _ h h2 =>
    exact ⟨_, _, trace_selectThenRead s ptr _ h h2, rfl, .failed _ _ e (by simp [BusAnswer.isOk])⟩
  | readHung ptr _ h h2 =>
    exact ⟨_, _, trace_selectThenRead s ptr _ h h2, by simp, .unanswered _ _ (by simp [BusAnswer.isOk])⟩
  | readDone ptr bytes f _ h h2 =>
    exact ⟨_, _, trace_selectThenRead s ptr _ h h2, rfl, .answered _ _ (by simp [BusAnswer.isOk]) (by simp)⟩
  | writeFailed ptr data e _ h => exact ⟨_, _, by simp [h], rfl, .failed [] (writeCall s ptr data) e (by simp)⟩
  | writeHung ptr data _ h => exact ⟨_, _, by simp [h], by simp, .unanswered [] (writeCall s ptr data) (by simp)⟩
  | writeDone ptr data _ h =>
    exact ⟨[⟨writeCall s ptr data, .ok []⟩], _, by simp [h], rfl, .answered _ _ (by simp [BusAnswer.isOk]) (by simp)⟩

/-- The one response is `IoError` with `e` just where the last call failed with `e`. -/
theorem CallsGive.ioError_iff {made : List BusEvent} {given : List Response} (gives : CallsGive made given) (e : IoErr) :
    given = [.error (.ioError e)] ↔ ∃ before c, made = before ++ [⟨c, .fail e⟩] := by
  cases gives with
  | answered made r ok hr =>
    constructor
    · intro h
      exact absurd (List.singleton_inj.mp h) (hr e)
    · rintro ⟨before, c, rfl⟩
      exact absurd (ok ⟨c, .fail e⟩ (by simp)) (by simp [BusAnswer.isOk])
  | failed made c e' ok => simp
  | unanswered made c ok => simp

/-- Only the last call can have gone wrong. -/
theorem CallsGive.isOk_of_mem_dropLast {made : List BusEvent} {given : List Response} (gives : CallsGive made given)
    {x : BusEvent} (hx : x ∈ made.dropLast) : x.answer.isOk = true := by
  cases gives with
  | answered made r ok hr => exact ok x (List.mem_of_mem_dropLast hx)
  | failed made c e ok | unanswered made c ok =>
    rw [List.dropLast_concat] at hx
    exact ok x hx

/-! ### InvalidArgument (R133) -/

/-- The pointer check of RDREG or WRREG refuses the operation (R80, R81). -/
def PointerRefused : Instr → Prop
  | .rdreg ptr => validPtr ptr = false
  | .wrreg ptr _ => writablePtr ptr = false
  | _ => False

/-- The pointer checks by the pointer's number (R15, R26). -/
theorem pointerRefused_iff (i : Instr) :
    PointerRefused i ↔
      (∃ ptr, i = .rdreg ptr ∧ (ptr.toNat < 0x01 ∨ 0x08 < ptr.toNat)) ∨
        (∃ ptr data, i = .wrreg ptr data ∧ (ptr.toNat < 0x01 ∨ 0x04 < ptr.toNat)) := by
  cases i with
  | rdreg ptr => simp [PointerRefused, validPtr_eq_false_iff]
  | wrreg ptr data => simp [PointerRefused, writablePtr_eq_false_iff]
  | _ => simp [PointerRefused]

/-- A refused pointer is answered with the error and nothing else: no call is made. -/
theorem exec_of_pointerRefused (i : Instr) (s : State) (h : PointerRefused i) :
    exec i s = .next (s.raise .invalidArgument) := by
  cases i with
  | rdreg ptr => exact congrArg Host.Outcome.next (if_neg (ne_true_of_eq_false h))
  | wrreg ptr data => exact congrArg Host.Outcome.next (if_neg (ne_true_of_eq_false h))
  | _ => cases h

/-- A register read gives no response of its own. -/
@[simp] theorem regRead_responses (s : State) (ptr : Byte) : (regRead s ptr).2.responses = s.responses := by
  rcases regRead_cases s ptr with ⟨_, _, hr⟩ | ⟨_, hr⟩ | ⟨_, _, rfl, ⟨_, _, hr⟩ | ⟨_, hr⟩ | ⟨_, _, _, hr⟩⟩ <;> simp [hr]

/-- A register write gives no response of its own. -/
@[simp] theorem regWrite_responses (s : State) (ptr : Byte) (data : Half) :
    (regWrite s ptr data).2.responses = s.responses := by
  rcases regWrite_cases s ptr data with ⟨_, _, hr⟩ | ⟨_, hr⟩ | ⟨_, hr⟩ <;> simp [hr]

/-- A register access ends with a value, with `IoError`, or with no response. -/
theorem finish_not_invalidArgument (f : Half → Word) (r : RegResult × State) :
    (finish f r).responses ≠ r.2.responses ++ [.error .invalidArgument] := by
  obtain ⟨v | e | _, s⟩ := r <;> simp

/-- A pure operation refuses its operands with `IllegalCommand` only (R138). -/
theorem State.answer_not_invalidArgument (s : State) (r : Option Word) :
    (s.answer r).responses ≠ s.responses ++ [.error .invalidArgument] := by
  cases r <;> simp

/-- An operation that no pointer check refuses does not end with `InvalidArgument`. -/
theorem exec_not_invalidArgument (i : Instr) (s : State) (h : ¬ PointerRefused i) :
    ∃ t, exec i s = .next t ∧ t.responses ≠ s.responses ++ [.error .invalidArgument] := by
  have read (f : Half → Word) (ptr : Byte) := regRead_responses s ptr ▸ finish_not_invalidArgument f (regRead s ptr)
  cases i with
  | rdreg ptr =>
    have valid : validPtr ptr = true := eq_true_of_ne_false h
    exact ⟨_, rfl, by rw [if_pos valid]; exact read _ ptr⟩
  | wrreg ptr data =>
    have writable : writablePtr ptr = true := eq_true_of_ne_false h
    have := finish_not_invalidArgument zext32 (regWrite s ptr data)
    exact ⟨_, rfl, by rwa [if_pos writable, ← regWrite_responses s ptr data]⟩
  | gettemp | chkflags => exact ⟨_, rfl, read _ ambientPtr⟩
  | tosigned | tounsigned | enctemp => exact ⟨_, rfl, s.answer_not_invalidArgument _⟩
  | dectemp | extflags | matchflags | unpackcfg | dechyst | decres => exact ⟨_, rfl, by simp⟩

end Sys2Proof.Machine

open Sys2Proof Sys2Proof.Machine

/-- Settles O46: however an operation ends, only its last call can have failed, and its response is `IoError` just there. -/
theorem ioErrorExactlyWhenACallFails : Obligations.IoErrorExactlyWhenACallFails := by
  intro i s t hexec
  obtain ⟨t', ht', ends⟩ := exec_ends i s
  obtain rfl := Host.Outcome.next.inj (ht'.symm.trans hexec)
  obtain ⟨made, given, htrace, hresponses, gives⟩ := ends.callsGive
  refine ⟨made, htrace, fun e => ?_, ?_⟩
  · rw [hresponses, List.append_cancel_left_eq]
    exact gives.ioError_iff e
  · rintro before x after rfl hafter
    refine gives.isOk_of_mem_dropLast ?_
    simp [List.dropLast_append_of_ne_nil, List.dropLast_cons_of_ne_nil hafter]

/-- Settles O44: a refused pointer raises the error on the state as it stands, and nothing else gives that response. -/
theorem invalidArgumentComesOnlyFromPointerChecks : Obligations.InvalidArgumentComesOnlyFromPointerChecks := by
  intro i s t hexec
  rw [← pointerRefused_iff]
  by_cases refused : PointerRefused i
  · obtain rfl := Host.Outcome.next.inj ((exec_of_pointerRefused i s refused).symm.trans hexec)
    exact ⟨iff_of_true rfl refused, fun _ => rfl⟩
  · obtain ⟨t', ht', other⟩ := exec_not_invalidArgument i s refused
    obtain rfl := Host.Outcome.next.inj (ht'.symm.trans hexec)
    exact ⟨iff_of_false other refused, fun h => absurd h other⟩
end

section
/-! The command word, both ways (30_encoding.md R60 to R67): what a word decodes to is the operation it encodes, so every fact about a
legal word is a fact about the command of an operation; and the opcode table's rows, field by field. -/

namespace Sys2Proof

/-! ### Reserved halves -/

/-- A word whose high part is zero is its low part, zero-extended. -/
theorem zero_append_low {n m : Nat} (x : BitVec (n + m)) (h : x.extractLsb' m n = 0#n) :
    0#n ++ x.extractLsb' 0 m = x := by
  rw [← h]
  exact append_slices x

@[simp] theorem lowHalf_high (h : Half) : (lowHalf h).extractLsb' 16 16 = 0#16 := append_high (0#16) h

@[simp] theorem lowHalf_low (h : Half) : (lowHalf h).extractLsb' 0 16 = h := append_low (0#16) h

/-- Two reserved fields are zero together. -/
theorem parts_eq_zero_of_append {n m : Nat} {x : BitVec n} {y : BitVec m} (h : x ++ y = 0) : x = 0#n ∧ y = 0#m :=
  (append_eq_zero x y).mp h

/-! ### The round trips (R63, R66) -/

/-- The fields of an operation's command decode to the operation. -/
theorem decode_toCmd (i : Instr) : i.toCmd.decode = some i := by
  cases i with
  | rdreg ptr => simp [Instr.toCmd, decode_fields_01]
  | wrreg ptr data => simp [Instr.toCmd, decode_fields_02]
  | gettemp => rfl
  | chkflags req strict => simp [Instr.toCmd, decode_fields_04]
  | tosigned u w => rfl
  | tounsigned v w => rfl
  | dectemp word => simp [Instr.toCmd, decode_fields_10]
  | enctemp n => rfl
  | extflags word => simp [Instr.toCmd, decode_fields_12]
  | matchflags word req strict =>
    simp [Instr.toCmd, decode_fields_13, append_low word req, append_high word req]
  | unpackcfg word => simp [Instr.toCmd, decode_fields_20]
  | dechyst code =>
    simp [Instr.toCmd, decode_fields_21, append_low (0#30) code, append_high (0#30) code]
  | decres byte =>
    simp [Instr.toCmd, decode_fields_22, append_low (0#24) byte, append_high (0#24) byte]

/-- A 16-bit operand is the whole of an `arg32` whose high half is zero. -/
theorem lowHalf_of_high_eq_zero (b : Word) (h : b.extractLsb' 16 16 = 0#16) : lowHalf (b.extractLsb' 0 16) = b :=
  zero_append_low (n := 16) (m := 16) b h

/-- Only the command of an operation decodes to it: every bit of the fields is an operand's, or reserved and zero. -/
theorem toCmd_of_decode (c : Cmd) (i : Instr) (h : c.decode = some i) : i.toCmd = c := by
  obtain ⟨opc, a, b⟩ := c
  unfold Cmd.decode at h
  simp only at h
  split at h
  case h_1 =>
    obtain ⟨reserved, rfl⟩ := (whenZero_eq_some ..).mp h
    simp [Instr.toCmd, reserved]
  case h_2 =>
    obtain ⟨reserved, rfl⟩ := (whenZero_eq_some ..).mp h
    simp [Instr.toCmd, lowHalf_of_high_eq_zero b reserved]
  case h_3 =>
    obtain ⟨reserved, rfl⟩ := (whenZero_eq_some ..).mp h
    obtain ⟨rfl, rfl⟩ := parts_eq_zero_of_append reserved
    rfl
  case h_4 =>
    obtain ⟨reserved, rfl⟩ := (whenZero_eq_some ..).mp h
    obtain ⟨ha, hb⟩ := parts_eq_zero_of_append reserved
    simp [Instr.toCmd, strictArg_strictBit a ha, lowHalf_of_high_eq_zero b hb]
  case h_5 | h_6 =>
    obtain rfl := Option.some.inj h
    rfl
  case h_7 | h_9 | h_11 =>
    obtain ⟨reserved, rfl⟩ := (whenZero_eq_some ..).mp h
    obtain ⟨rfl, hb⟩ := parts_eq_zero_of_append reserved
    simp [Instr.toCmd, lowHalf_of_high_eq_zero b hb]
  case h_8 =>
    obtain ⟨reserved, rfl⟩ := (whenZero_eq_some ..).mp h
    simp [Instr.toCmd, reserved]
  case h_10 =>
    obtain ⟨reserved, rfl⟩ := (whenZero_eq_some ..).mp h
    simp [Instr.toCmd, strictArg_strictBit a reserved, append_slices (n := 16) (m := 16) b]
  case h_12 =>
    obtain ⟨reserved, rfl⟩ := (whenZero_eq_some ..).mp h
    obtain ⟨rfl, hb⟩ := parts_eq_zero_of_append reserved
    simp [Instr.toCmd, zero_append_low (n := 30) (m := 2) b hb]
  case h_13 =>
    obtain ⟨reserved, rfl⟩ := (whenZero_eq_some ..).mp h
    obtain ⟨rfl, hb⟩ := parts_eq_zero_of_append reserved
    simp [Instr.toCmd, zero_append_low (n := 24) (m := 8) b hb]
  case h_14 => cases h

/-- The command words that decode to an operation are one: its own. -/
theorem decode_eq_some_iff (cmd : CmdWord) (i : Instr) : decode cmd = some i ↔ encode i = cmd := by
  constructor
  · intro h
    rw [encode, toCmd_of_decode (Cmd.unpack cmd) i h, Cmd.pack_unpack]
  · rintro rfl
    rw [decode, encode, Cmd.unpack_pack, decode_toCmd]

/-- The slices of an operation's command word are the fields of its command (R60). -/
theorem encode_slices (i : Instr) :
    (encode i).extractLsb' 32 8 = i.toCmd.arg8 ∧ (encode i).extractLsb' 0 32 = i.toCmd.arg32 := by
  have fields : Cmd.unpack (encode i) = i.toCmd := Cmd.unpack_pack i.toCmd
  rw [← Cmd.unpack_arg8, ← Cmd.unpack_arg32, fields]
  exact ⟨rfl, rfl⟩

/-- A slice of the low 32 bits of a command word is a slice of `arg32`. -/
theorem extractLsb'_arg32 (cmd : CmdWord) (k n : Nat) (h : k + n ≤ 32) :
    cmd.extractLsb' k n = (cmd.extractLsb' 0 32).extractLsb' k n := by
  apply BitVec.eq_of_getLsbD_eq
  intro j hj
  simp only [BitVec.getLsbD_extractLsb']
  rw [Nat.zero_add]
  simp only [hj, show k + j < 32 by omega, decide_true, Bool.true_and]

/-- Bit 32 of an operation's command word is the lowest of its `arg8`. -/
theorem encode_strict (i : Instr) : (encode i).getLsbD 32 = strictBit i.toCmd.arg8 := by
  rw [← (encode_slices i).1]
  simp [strictBit]

/-! ### The opcode table (R67) -/

/-- A masked command word, compared with a value, compares each field (the converse of `masked_eq`). -/
theorem fields_of_masked (c : Cmd) (o a : Byte) (b : Word) (mo ma : Byte) (mb : Word)
    (h : c.pack &&& ((mo ++ ma) ++ mb) = (o ++ a) ++ b) :
    c.opc &&& mo = o ∧ c.arg8 &&& ma = a ∧ c.arg32 &&& mb = b := by
  rw [Laws.EncodeMatchesRow.masked_eq c _ _ _ mo ma mb rfl rfl rfl] at h
  have fields := congrArg Cmd.unpack h
  change Cmd.unpack (Cmd.pack ⟨_, _, _⟩) = Cmd.unpack (Cmd.pack ⟨_, _, _⟩) at fields
  rwa [Cmd.unpack_pack, Cmd.unpack_pack, Cmd.mk.injEq] at fields

/-- A field that a mask covers with ones is zero where the masked word is. -/
theorem slice_eq_zero_of_masked {w : Nat} {x mask : BitVec w} (h : x &&& mask = 0) (k n : Nat)
    (covered : mask.extractLsb' k n = BitVec.allOnes n) : x.extractLsb' k n = 0 := by
  have slice := congrArg (BitVec.extractLsb' k n) h
  rwa [BitVec.extractLsb'_and, covered, BitVec.and_allOnes, BitVec.ofNat_eq_ofNat, BitVec.extractLsb'_zero] at slice

/-- A word with all bits masked is zero where the masked word is. -/
theorem eq_zero_of_masked {w : Nat} {x : BitVec w} (h : x &&& BitVec.allOnes w = 0) : x = 0 := by
  rwa [BitVec.and_allOnes] at h

/-- Three fields decode to some operation with a mnemonic. -/
def Cmd.Spells (c : Cmd) (m : String) : Prop := ∃ i, c.decode = some i ∧ i.mnemonic = m

theorem spells_of_whenZero {c : Cmd} {n : Nat} {reserved : BitVec n} {i : Instr}
    (decodes : c.decode = whenZero reserved i) (h : reserved = 0) : c.Spells i.mnemonic :=
  ⟨i, by rw [decodes, whenZero_eq_some]; exact ⟨h, rfl⟩, rfl⟩

/-- A row whose value is an operation code and whose mask is given field by field matches a word just where the code is the word's and
the masked fields are zero; so it matches only words that spell its mnemonic, if such fields do. -/
theorem spells_of_row (cmd : CmdWord) (r : OpcodeRow) (h : cmd &&& r.mask = r.value) (o ma : Byte) (mb : Word)
    (mask : r.mask = (BitVec.allOnes 8 ++ ma) ++ mb) (value : r.value = (o ++ 0#8) ++ 0#32)
    (spells : ∀ a b, a &&& ma = 0 → b &&& mb = 0 → (Cmd.mk o a b).Spells r.mnemonic) :
    (Cmd.unpack cmd).Spells r.mnemonic := by
  rw [← Cmd.pack_unpack cmd, mask, value] at h
  obtain ⟨ho, ha, hb⟩ := fields_of_masked _ _ _ _ _ _ _ h
  rw [BitVec.and_allOnes] at ho
  have := spells _ _ ha hb
  rwa [← ho] at this

theorem append_eq_zero_of_parts {n m : Nat} {x : BitVec n} {y : BitVec m} (hx : x = 0) (hy : y = 0) : x ++ y = 0 :=
  (append_eq_zero x y).mpr ⟨hx, hy⟩

/-- The high half of `arg32` is reserved where its mask covers it. -/
theorem high_half_of_masked {b : Word} (h : b &&& 0xFFFF0000#32 = 0) : b.extractLsb' 16 16 = 0 :=
  slice_eq_zero_of_masked h 16 16 (by decide)

/-- Seven bits of `arg8` are reserved beside the strict bit. -/
theorem high_seven_of_masked {a : Byte} (h : a &&& 0xFE#8 = 0) : a.extractLsb' 1 7 = 0 :=
  slice_eq_zero_of_masked h 1 7 (by decide)

/-- A row matches only words that spell its mnemonic: its masked fields are the ones the decoder reserves. -/
theorem spells_of_matching_row (cmd : CmdWord) (r : OpcodeRow) (mem : r ∈ opcodeTable) (h : cmd &&& r.mask = r.value) :
    (Cmd.unpack cmd).Spells r.mnemonic := by
  have row := spells_of_row cmd r h
  simp only [opcodeTable, List.mem_cons, List.not_mem_nil, or_false] at mem
  obtain rfl | rfl | rfl | rfl | rfl | rfl | rfl | rfl | rfl | rfl | rfl | rfl | rfl := mem
  · exact row 0x01#8 0#8 (.allOnes 32) (by decide) (by decide) fun a b _ hb =>
      spells_of_whenZero (decode_fields_01 a b) (eq_zero_of_masked hb)
  · exact row 0x02#8 0#8 0xFFFF0000#32 (by decide) (by decide) fun a b _ hb =>
      spells_of_whenZero (decode_fields_02 a b) (high_half_of_masked hb)
  · exact row 0x03#8 (.allOnes 8) (.allOnes 32) (by decide) (by decide) fun a b ha hb =>
      spells_of_whenZero (decode_fields_03 a b) (append_eq_zero_of_parts (eq_zero_of_masked ha) (eq_zero_of_masked hb))
  · exact row 0x04#8 0xFE#8 0xFFFF0000#32 (by decide) (by decide) fun a b ha hb =>
      spells_of_whenZero (decode_fields_04 a b)
        (append_eq_zero_of_parts (high_seven_of_masked ha) (high_half_of_masked hb))
  · exact row 0x05#8 0#8 0#32 (by decide) (by decide) fun a b _ _ => ⟨_, decode_fields_05 a b, rfl⟩
  · exact row 0x06#8 0#8 0#32 (by decide) (by decide) fun a b _ _ => ⟨_, decode_fields_06 a b, rfl⟩
  · exact row 0x10#8 (.allOnes 8) 0xFFFF0000#32 (by decide) (by decide) fun a b ha hb =>
      spells_of_whenZero (decode_fields_10 a b) (append_eq_zero_of_parts (eq_zero_of_masked ha) (high_half_of_masked hb))
  · exact row 0x11#8 (.allOnes 8) 0#32 (by decide) (by decide) fun a b ha _ =>
      spells_of_whenZero (decode_fields_11 a b) (eq_zero_of_masked ha)
  · exact row 0x12#8 (.allOnes 8) 0xFFFF0000#32 (by decide) (by decide) fun a b ha hb =>
      spells_of_whenZero (decode_fields_12 a b) (append_eq_zero_of_parts (eq_zero_of_masked ha) (high_half_of_masked hb))
  · exact row 0x13#8 0xFE#8 0#32 (by decide) (by decide) fun a b ha _ =>
      spells_of_whenZero (decode_fields_13 a b) (high_seven_of_masked ha)
  · exact row 0x20#8 (.allOnes 8) 0xFFFF0000#32 (by decide) (by decide) fun a b ha hb =>
      spells_of_whenZero (decode_fields_20 a b) (append_eq_zero_of_parts (eq_zero_of_masked ha) (high_half_of_masked hb))
  · exact row 0x21#8 (.allOnes 8) 0xFFFFFFFC#32 (by decide) (by decide) fun a b ha hb =>
      spells_of_whenZero (decode_fields_21 a b)
        (append_eq_zero_of_parts (eq_zero_of_masked ha) (slice_eq_zero_of_masked hb 2 30 (by decide)))
  · exact row 0x22#8 (.allOnes 8) 0xFFFFFF00#32 (by decide) (by decide) fun a b ha hb =>
      spells_of_whenZero (decode_fields_22 a b)
        (append_eq_zero_of_parts (eq_zero_of_masked ha) (slice_eq_zero_of_masked hb 8 24 (by decide)))

/-- Every operation's command word is matched by the row of its mnemonic. -/
theorem encode_matches_row (i : Instr) : Laws.EncodeMatchesRow.Statement i := by
  cases i with
  | rdreg ptr => exact Laws.EncodeMatchesRow.rdreg ptr
  | wrreg ptr data => exact Laws.EncodeMatchesRow.wrreg ptr data
  | gettemp => exact Laws.EncodeMatchesRow.gettemp
  | chkflags req strict => exact Laws.EncodeMatchesRow.chkflags req strict
  | tosigned u w => exact Laws.EncodeMatchesRow.tosigned u w
  | tounsigned v w => exact Laws.EncodeMatchesRow.tounsigned v w
  | dectemp word => exact Laws.EncodeMatchesRow.dectemp word
  | enctemp n => exact Laws.EncodeMatchesRow.enctemp n
  | extflags word => exact Laws.EncodeMatchesRow.extflags word
  | matchflags word req strict => exact Laws.EncodeMatchesRow.matchflags word req strict
  | unpackcfg word => exact Laws.EncodeMatchesRow.unpackcfg word
  | dechyst code => exact Laws.EncodeMatchesRow.dechyst code
  | decres byte => exact Laws.EncodeMatchesRow.decres byte

/-- A word that no row matches is not legal (R66). -/
theorem decode_eq_none_of_no_row (cmd : CmdWord) (h : ∀ r ∈ opcodeTable, cmd &&& r.mask ≠ r.value) :
    decode cmd = none := by
  cases hd : decode cmd with
  | none => rfl
  | some i =>
    obtain rfl := (decode_eq_some_iff ..).mp hd
    obtain ⟨r, mem, -, hr⟩ := encode_matches_row i
    exact absurd hr (h r mem)

/-- The operation code's bits of a command word (R60). -/
def opcodeBits : CmdWord := 0xFF0000000000#48

/-- Every row's mask covers the operation code, and no two rows have one operation code. -/
theorem opcodeTable_codes :
    (∀ r ∈ opcodeTable, r.mask &&& opcodeBits = opcodeBits) ∧
    ∀ r ∈ opcodeTable, ∀ r' ∈ opcodeTable, r.value &&& opcodeBits = r'.value &&& opcodeBits → r = r' := by
  decide

/-- A word has the operation code of a row that matches it. -/
theorem opcode_of_matching_row (cmd : CmdWord) (r : OpcodeRow) (mem : r ∈ opcodeTable) (h : cmd &&& r.mask = r.value) :
    r.value &&& opcodeBits = cmd &&& opcodeBits := by
  rw [← h, BitVec.and_assoc, opcodeTable_codes.1 r mem]

end Sys2Proof

open Sys2Proof

/-- Settles O9: the fields of an operation's command decode to it, and slicing undoes packing. -/
theorem decodeOfEncodeIsTheInstruction : Obligations.DecodeOfEncodeIsTheInstruction := by
  intro i
  exact (decode_eq_some_iff ..).mpr rfl

/-- Settles O10: a word decodes only to the operation whose command word it is. -/
theorem encodeOfDecodeIsTheWord : Obligations.EncodeOfDecodeIsTheWord := by
  intro cmd i h
  exact (decode_eq_some_iff ..).mp h

/-- Settles O13: a legal word is the command word of its operation, whose fields hold the operands. -/
theorem operandsAreTheSlicesOfTheWord : Obligations.OperandsAreTheSlicesOfTheWord := by
  intro cmd i h
  obtain rfl := (decode_eq_some_iff ..).mp h
  obtain ⟨h8, h32⟩ := encode_slices i
  have low (k n : Nat) (hk : k + n ≤ 32) := extractLsb'_arg32 (encode i) k n hk
  cases i with
  | rdreg ptr => simp [h8, Instr.toCmd]
  | wrreg ptr data => simp [h8, low 0 16, h32, Instr.toCmd]
  | gettemp => trivial
  | chkflags req strict =>
    refine ⟨by simp [low 0 16, h32, Instr.toCmd], ?_⟩
    rw [encode_strict]
    exact (strictBit_strictArg strict).symm
  | tosigned u w | tounsigned v w => simp [h8, h32, Instr.toCmd]
  | enctemp n => simp [h32, Instr.toCmd]
  | dectemp word | extflags word | unpackcfg word => simp [low 0 16, h32, Instr.toCmd]
  | matchflags word req strict =>
    refine ⟨?word, ?req, ?strict⟩
    case word => simp [low 16 16, h32, Instr.toCmd, append_high word req]
    case req => simp [low 0 16, h32, Instr.toCmd, append_low word req]
    case strict =>
      rw [encode_strict]
      exact (strictBit_strictArg strict).symm
  | dechyst code => simp [low 0 2, h32, Instr.toCmd, append_low (0#30) code]
  | decres byte => simp [low 0 8, h32, Instr.toCmd, append_low (0#24) byte]

/-- Settles O11: a legal word is an operation's command word, which its mnemonic's row matches; a row matches only words that spell its
mnemonic. -/
theorem decoderAgreesWithOpcodeTable : Obligations.DecoderAgreesWithOpcodeTable := by
  intro cmd m
  constructor
  · rintro ⟨i, hd, rfl⟩
    obtain rfl := (decode_eq_some_iff ..).mp hd
    exact encode_matches_row i
  · rintro ⟨r, mem, rfl, hr⟩
    exact spells_of_matching_row cmd r mem hr

/-- Settles O12: a row that matches fixes the word's operation code, and no two rows share one. -/
theorem atMostOneRowMatches : Obligations.AtMostOneRowMatches := by
  intro cmd r r' mem mem' h h'
  refine opcodeTable_codes.2 r mem r' mem' ?_
  rw [opcode_of_matching_row cmd r mem h, opcode_of_matching_row cmd r' mem' h']
end

section
/-! One step, whole (10_state.md R12, 20_memory.md R51, 70_reset_and_hazards.md R150 to R158): where it stops and what it runs, that the
command is used up and answered or awaited, and that the bus protocol is kept. -/

namespace Sys2Proof.Machine

/-! ### What a step runs, and where it stops -/

/-- The first command leaves the program when it is sent. -/
theorem State.sent_eq {s : State} {cmd : CmdWord} {rest : List CmdWord} (h : s.program = cmd :: rest) :
    s.sent = { s with program := rest } := by
  rw [State.sent, h, List.tail_cons]

theorem runCommand_of_decode_some {cmd : CmdWord} {i : Instr} (s : State) (h : decode cmd = some i) :
    runCommand cmd s = exec i s := by
  simp only [runCommand, h]

theorem runCommand_of_decode_none {cmd : CmdWord} (s : State) (h : decode cmd = none) :
    runCommand cmd s = .next (s.raise .illegalCommand) := by
  simp only [runCommand, h]

/-- A step with no command to take (log 1). -/
theorem step_idle (s : State) (hc : s.contention = none) (hw : s.waiting = none) (hp : s.program = []) :
    step s = .next s := by
  simp only [step, takeCommand, hc, hw, hp]

/-- A step in contract that waits for a call which is never answered (log 9). -/
theorem step_waiting (s : State) (c : BusCall) (hc : s.contention = none) (hw : s.waiting = some c) :
    step s = .fault .transportSilent := by
  simp only [step, takeCommand, hc, hw]

/-- A step out of contract (log 10). -/
theorem step_contended (s : State) (c : Contention) (hc : s.contention = some c) : step s = .refused c.refusal := by
  simp only [step, takeCommand, hc]

/-! ### What a transport call leaves the block waiting for -/

/-- A call that is answered leaves no wait behind. -/
theorem State.afterCall_waiting_of_answered {s : State} {c : BusCall} (h : s.busAnswer c ≠ .silent) :
    (s.afterCall c).waiting = s.waiting :=
  if_neg h

/-- A call that is never answered leaves the block waiting for it, and it is the last in the trace (R158). -/
theorem State.afterCall_of_silent {s : State} {c : BusCall} (h : s.busAnswer c = .silent) :
    (s.afterCall c).waiting = some c ∧ (s.afterCall c).trace.getLast? = some ⟨c, .silent⟩ := by
  rw [State.afterCall_waiting, State.afterCall_trace, if_pos h, List.getLast?_concat, h]
  exact ⟨rfl, rfl⟩

/-- Both calls of a register read were answered: nothing is awaited that was not before. -/
theorem waiting_selectThenRead {s : State} {ptr : Byte} (h : s.busAnswer (selectCall s ptr) = .ok [])
    (h2 : (s.afterCall (selectCall s ptr)).busAnswer (readCall s ptr) ≠ .silent) :
    ((s.afterCall (selectCall s ptr)).afterCall (readCall s ptr)).waiting = s.waiting := by
  rw [State.afterCall_waiting_of_answered h2, State.afterCall_waiting_of_answered (by simp [h])]

/-- An operation that starts with nothing awaited gives one response and awaits nothing, or gives none and awaits the last call it
made. -/
theorem Ends.responds_or_waits {s t : State} (ends : Ends s t) (hw : s.waiting = none) :
    (t.waiting = none ∧ ∃ r, t.responses = s.responses ++ [r]) ∨
      ∃ c, t.waiting = some c ∧ t.trace.getLast? = some ⟨c, .silent⟩ ∧ t.responses = s.responses := by
  cases ends with
  | pure r _ => exact .inl ⟨hw, r, rfl⟩
  | selectFailed ptr e _ h => exact .inl ⟨(State.afterCall_waiting_of_answered (by simp [h])).trans hw, _, rfl⟩
  | readFailed ptr e _ h h2 => exact .inl ⟨(waiting_selectThenRead h (by simp [h2])).trans hw, _, rfl⟩
  | readDone ptr bytes f _ h h2 => exact .inl ⟨(waiting_selectThenRead h (by simp [h2])).trans hw, _, rfl⟩
  | writeFailed ptr data e _ h => exact .inl ⟨(State.afterCall_waiting_of_answered (by simp [h])).trans hw, _, rfl⟩
  | writeDone ptr data _ h => exact .inl ⟨(State.afterCall_waiting_of_answered (by simp [h])).trans hw, _, rfl⟩
  | selectHung ptr _ h | readHung ptr _ _ h | writeHung ptr data _ h =>
    obtain ⟨hwait, hlast⟩ := State.afterCall_of_silent h
    exact .inr ⟨_, hwait, hlast, rfl⟩

/-- No operation touches the host's commands or the device address. -/
theorem Ends.program_devAddr {s t : State} (ends : Ends s t) : t.program = s.program ∧ t.devAddr = s.devAddr := by
  cases ends <;> exact ⟨rfl, rfl⟩

/-! ### The bus protocol -/

/-- A select write that succeeded and the read that follows keep the protocol, however the read is answered. -/
theorem selectThenRead_keeps_protocol (s : State) (ptr : Byte) (hp : validPtr ptr = true)
    (h : s.busAnswer (selectCall s ptr) = .ok []) :
    ∃ made, ((s.afterCall (selectCall s ptr)).afterCall (readCall s ptr)).trace = s.trace ++ made ∧
      traceKeepsProtocol s.devAddr made = true :=
  ⟨_, trace_selectThenRead s ptr _ h rfl,
    traceKeepsProtocol_read _ ptr _ hp (State.busAnswer_ofRead _ _ _ (ptrWidth_one_or_two ptr))⟩

/-- However an operation ends, the calls it made keep the protocol. -/
theorem Ends.keeps_protocol {s t : State} (ends : Ends s t) :
    ∃ made, t.trace = s.trace ++ made ∧ traceKeepsProtocol s.devAddr made = true := by
  cases ends with
  | pure r _ => exact ⟨[], by simp, rfl⟩
  | selectFailed ptr _ hp h | selectHung ptr hp h =>
    exact ⟨_, rfl, traceKeepsProtocol_select _ ptr _ hp (by rw [h]; rfl)⟩
  | readFailed ptr _ hp h _ | readHung ptr hp h _ | readDone ptr _ _ hp h _ =>
    exact selectThenRead_keeps_protocol s ptr hp h
  | writeFailed ptr _ _ hp _ | writeHung ptr _ hp _ | writeDone ptr _ hp _ =>
    exact ⟨_, rfl, traceKeepsProtocol_write _ ptr _ _ _ hp (s.busAnswer_ofWrite _ _)⟩

/-- The invariant in two parts. -/
theorem State.protocolOk_iff (s : State) :
    s.protocolOk = true ↔ traceKeepsProtocol s.devAddr s.trace = true ∧ waitsForLastCall s = true := by
  rw [State.protocolOk, Bool.and_eq_true]

theorem waitsForLastCall_of_none {s : State} (h : s.waiting = none) : waitsForLastCall s = true := by
  simp only [waitsForLastCall, h]

theorem waitsForLastCall_of_last {s : State} {c : BusCall} (h : s.waiting = some c)
    (hlast : s.trace.getLast? = some ⟨c, .silent⟩) : waitsForLastCall s = true := by
  simp only [waitsForLastCall, h, hlast, decide_true]

/-- An operation that starts with nothing awaited keeps the invariant. -/
theorem Ends.protocolOk {s t : State} (ends : Ends s t) (hw : s.waiting = none)
    (h : traceKeepsProtocol s.devAddr s.trace = true) : t.protocolOk = true := by
  obtain ⟨made, htrace, hmade⟩ := ends.keeps_protocol
  rw [State.protocolOk_iff, htrace, ends.program_devAddr.2]
  refine ⟨traceKeepsProtocol_append _ _ _ h hmade, ?_⟩
  obtain ⟨hnone, -⟩ | ⟨c, hsome, hlast, -⟩ := ends.responds_or_waits hw
  · exact waitsForLastCall_of_none hnone
  · exact waitsForLastCall_of_last hsome hlast

end Sys2Proof.Machine

open Sys2Proof Sys2Proof.Machine

/-- Settles O53: a step that goes on waits for nothing before it, and the calls of its one operation keep the protocol. -/
theorem everyStepKeepsTheBusProtocol : Obligations.EveryStepKeepsTheBusProtocol := by
  intro s t hok hstep
  obtain ⟨-, hw, ⟨-, rfl⟩ | ⟨cmd, rest, -, hrun⟩⟩ := step_next_cases s t hstep
  · exact hok
  · obtain ⟨t', ht', ends⟩ := runCommand_ends cmd s.sent
    obtain rfl := Host.Outcome.next.inj (ht'.symm.trans hrun)
    exact ends.protocolOk hw ((s.protocolOk_iff).mp hok).1

/-- Settles O52: at reset the trace is empty and nothing is awaited. -/
theorem protocolHoldsAtReset : Obligations.ProtocolHoldsAtReset := by
  intro a
  exact (State.protocolOk_iff _).mpr ⟨rfl, rfl⟩

/-- Settles O7: the command is sent before its operation runs, which responds or waits and sends no other. -/
theorem everyCommandGetsOneResponse : Obligations.EveryCommandGetsOneResponse := by
  intro s cmd rest hc hw hp
  obtain ⟨t, ht, ends⟩ := runCommand_ends cmd s.sent
  refine ⟨t, (step_takes s cmd rest hc hw hp).trans ht, ?_, ?_⟩
  · rw [ends.program_devAddr.1, State.sent_program, hp, List.tail_cons]
  · obtain answered | ⟨c, hwait, -, hr⟩ := ends.responds_or_waits hw
    · exact .inl answered
    · exact .inr ⟨⟨c, hwait⟩, hr⟩

/-- Settles O1: reset is a literal state, with the address given. -/
theorem resetHoldsOnlyTheAddress : Obligations.ResetHoldsOnlyTheAddress :=
  ⟨rfl, rfl, fun _ => ⟨rfl, rfl, rfl, rfl, rfl, rfl, rfl, rfl⟩⟩

/-- Settles O2: a step takes the command, which leaves the program, and a legal word runs its operation. -/
theorem stepRunsTheDecodedCommand : Obligations.StepRunsTheDecodedCommand := by
  intro s cmd rest i hc hw hp hd
  rw [step_takes s cmd rest hc hw hp, runCommand_of_decode_some _ hd, State.sent_eq hp]

/-- Settles O3: a word sent is first in the program, with no wait and no contention in its way. -/
theorem tableWordRunsNext : Obligations.TableWordRunsNext := by
  intro s w i hd
  rw [State.withFetchWord, step_takes _ (tableWord 48 w) s.program rfl rfl rfl, runCommand_of_decode_some _ hd]
  rfl

/-- Settles O4: a word that no row matches is not legal, and such a word raises `IllegalCommand` alone. -/
theorem illegalWordIsAnsweredIllegalCommand : Obligations.IllegalWordIsAnsweredIllegalCommand := by
  intro s cmd rest hc hw hp hrows
  rw [step_takes s cmd rest hc hw hp, runCommand_of_decode_none _ (decode_eq_none_of_no_row cmd hrows),
    State.sent_eq hp]
  rfl

/-- Settles O5: with no command a step is idle. -/
theorem noCommandChangesNothing : Obligations.NoCommandChangesNothing :=
  step_idle

/-- Settles O6: an in-contract state that waits for nothing is idle or runs a command, which always has a next state. -/
theorem stepStopsOnlyWhenHungOrOutOfContract : Obligations.StepStopsOnlyWhenHungOrOutOfContract := by
  refine ⟨fun s hc hw => ?_, step_waiting, fun s cmd h => step_contended s _ h, fun s h => step_contended s _ h⟩
  cases hp : s.program with
  | nil => exact ⟨s, step_idle s hc hw hp⟩
  | cons cmd rest =>
    obtain ⟨t, ht, -⟩ := runCommand_ends cmd s.sent
    exact ⟨t, (step_takes s cmd rest hc hw hp).trans ht⟩

/-- Settles O8: each word is the one its operation encodes to. -/
theorem workedEncodingsDecode : Obligations.WorkedEncodingsDecode := by
  simp only [Obligations.WorkedEncodingsDecode, decode_eq_some_iff]
  decide

/-- Settles O14: the response word is its two fields, side by side. -/
theorem responseWordHoldsStatusAndResult : Obligations.ResponseWordHoldsStatusAndResult := by
  intro r
  have fields : r.word.extractLsb' 32 2 = r.status ∧ r.word.extractLsb' 0 32 = r.result :=
    ⟨append_high r.status r.result, append_low r.status r.result⟩
  obtain v | ⟨e⟩ | _ | _ := r <;> exact fields

/-- Settles O15: each line, read by the assembler. -/
theorem textFormsAssemble : Obligations.TextFormsAssemble :=
  ⟨by decide, by decide, by decide, by decide, by decide, by decide⟩
end

section
/-! TOSIGNED and TOUNSIGNED at every width (43_signed_helpers.md R110 to R113): which operands they answer and with what, and that on the
values of `w` bits they are inverse to each other. -/

namespace Sys2Proof.Machine

/-! ### What the two operations respond -/

theorem exec_tosigned_of_eq_none {u : Word} {w : Byte} (s : State) (h : toSigned u w = none) :
    exec (.tosigned u w) s = .next (s.raise .illegalCommand) := by
  change Host.Outcome.next (s.answer ((toSigned u w).map i32Bits)) = _
  rw [h]
  rfl

theorem exec_tounsigned_of_eq_some {v : Word} {w : Byte} {r : Int} (s : State) (h : toUnsigned v w = some r) :
    exec (.tounsigned v w) s = .next (s.respond (.ok (u32Bits r))) := by
  change Host.Outcome.next (s.answer ((toUnsigned v w).map u32Bits)) = _
  rw [h]
  rfl

theorem exec_tounsigned_of_eq_none {v : Word} {w : Byte} (s : State) (h : toUnsigned v w = none) :
    exec (.tounsigned v w) s = .next (s.raise .illegalCommand) := by
  change Host.Outcome.next (s.answer ((toUnsigned v w).map u32Bits)) = _
  rw [h]
  rfl

/-- A response of TOSIGNED that is no error shows the value TOSIGNED has. -/
theorem toSigned_of_exec_eq_ok {u r : Word} {w : Byte} {s : State}
    (h : exec (.tosigned u w) s = .next (s.respond (.ok r))) : ∃ x, toSigned u w = some x ∧ r = i32Bits x := by
  cases hx : toSigned u w with
  | none =>
    have responses := congrArg State.responses (Host.Outcome.next.inj ((exec_tosigned_of_eq_none s hx).symm.trans h))
    simp at responses
  | some x =>
    have responses := congrArg State.responses (Host.Outcome.next.inj ((exec_tosigned_of_eq_some s hx).symm.trans h))
    simp only [State.respond_responses, List.append_cancel_left_eq, List.cons.injEq, Response.ok.injEq] at responses
    exact ⟨x, rfl, responses.1.symm⟩

/-- The value before the range check, its sign bit read as a digit (R110). -/
theorem signedValue_eq (u : Word) (w : Byte) :
    signedValue u w = if u.toNat / 2 ^ (w.toNat - 1) % 2 = 1 then (u.toNat : Int) - 2 ^ w.toNat else (u.toNat : Int) := by
  simp only [signedValue, getLsbD_iff_digit, pow2_eq]

/-! ### The values of `w` bits -/

/-- At a width of 1 to 32 the modulus is twice the first value with the sign bit set, and no value of `w` bits leaves the `i32`s. -/
theorem pow2_width {w : Nat} (h1 : 1 ≤ w) (h32 : w ≤ 32) :
    pow2 w = 2 * pow2 (w - 1) ∧ 0 < pow2 (w - 1) ∧ pow2 (w - 1) ≤ 2147483648 := by
  refine ⟨?double, pow2_pos _, ?bound⟩
  case double => rw [pow2_eq, pow2_eq, ← pow_succ', Nat.sub_add_cancel h1]
  case bound =>
    have : 2 ^ (w - 1) ≤ 2 ^ 31 := Nat.pow_le_pow_right (by decide) (by omega)
    rw [pow2]
    omega

/-- Below the modulus the sign bit is set from half of it on. -/
theorem signedValue_of_lt {u : Word} {w : Byte} (h1 : 1 ≤ w.toNat) (hu : u.toNat < 2 ^ w.toNat) :
    signedValue u w =
      if u.toNat < 2 ^ (w.toNat - 1) then (u.toNat : Int) else (u.toNat : Int) - pow2 w.toNat := by
  have double : 2 ^ w.toNat = 2 ^ (w.toNat - 1) * 2 := by rw [← pow_succ, Nat.sub_add_cancel h1]
  have digit : u.toNat / 2 ^ (w.toNat - 1) < 2 := Nat.div_lt_of_lt_mul (double ▸ hu)
  have high : u.toNat / 2 ^ (w.toNat - 1) % 2 = 1 ↔ ¬ u.toNat < 2 ^ (w.toNat - 1) := by
    rw [Nat.mod_eq_of_lt digit, not_lt, ← Nat.one_le_div_iff (Nat.two_pow_pos _)]
    omega
  rw [signedValue_eq, ← pow2_eq, if_congr high rfl rfl, ite_not]

/-- TOSIGNED answers every value below the modulus: it leaves the lower half and shifts the upper half down (R113 (c)). -/
theorem toSigned_of_lt {u : Word} {w : Byte} (h1 : 1 ≤ w.toNat) (h32 : w.toNat ≤ 32) (hu : u.toNat < 2 ^ w.toNat) :
    toSigned u w =
      some (if u.toNat < 2 ^ (w.toNat - 1) then (u.toNat : Int) else (u.toNat : Int) - pow2 w.toNat) := by
  obtain ⟨double, -, bound⟩ := pow2_width h1 h32
  rw [toSigned_eq_some_iff, signedValue_of_lt h1 hu]
  have modulus : (u.toNat : Int) < pow2 w.toNat := Int.ofNat_lt.mpr hu
  refine ⟨h1, h32, rfl, ?_⟩
  split
  next low =>
    have : (u.toNat : Int) < pow2 (w.toNat - 1) := Int.ofNat_lt.mpr low
    omega
  next high =>
    have : pow2 (w.toNat - 1) ≤ (u.toNat : Int) := Int.ofNat_le.mpr (not_lt.mp high)
    omega

/-- A value TOUNSIGNED answers is one of `w` bits. -/
theorem toUnsigned_range {v : Word} {w : Byte} {r : Int} (h : toUnsigned v w = some r) :
    0 ≤ r ∧ r < pow2 w.toNat ∧ r < 4294967296 := by
  obtain ⟨h1, h32, low, high, rfl⟩ := (toUnsigned_eq_some_iff ..).mp h
  obtain ⟨double, pos, bound⟩ := pow2_width h1 h32
  split <;> omega

/-- A natural number of 32 bits is read back from its word. -/
theorem u32Bits_natCast_toNat (u : Word) : u32Bits (u.toNat : Int) = u := by
  rw [u32Bits, BitVec.ofInt_natCast, BitVec.ofNat_toNat, BitVec.setWidth_eq]

/-- An `i32` is read back from its word. -/
theorem i32Bits_toInt_self (v : Word) : i32Bits v.toInt = v := BitVec.ofInt_toInt

/-- TOUNSIGNED takes what TOSIGNED answers below the modulus back (R113 (a)). -/
theorem toUnsigned_of_toSigned {u : Word} {w : Byte} (h1 : 1 ≤ w.toNat) (h32 : w.toNat ≤ 32)
    (hu : u.toNat < 2 ^ w.toNat) {x : Int} (hx : toSigned u w = some x) :
    toUnsigned (i32Bits x) w = some (u.toNat : Int) := by
  obtain ⟨double, pos, bound⟩ := pow2_width h1 h32
  obtain ⟨-, -, -, low, high⟩ := (toSigned_eq_some_iff ..).mp hx
  have modulus : (u.toNat : Int) < pow2 w.toNat := Int.ofNat_lt.mpr hu
  rw [toUnsigned_eq_some_iff, i32Bits_toInt x low high]
  obtain rfl := Option.some.inj ((toSigned_of_lt h1 h32 hu).symm.trans hx)
  split
  next lower =>
    have : (u.toNat : Int) < pow2 (w.toNat - 1) := Int.ofNat_lt.mpr lower
    rw [if_neg (by omega)]
    omega
  next upper =>
    have : pow2 (w.toNat - 1) ≤ (u.toNat : Int) := Int.ofNat_le.mpr (not_lt.mp upper)
    rw [if_pos (by omega)]
    omega

/-- TOSIGNED takes what TOUNSIGNED answers back (R113 (b)). -/
theorem toSigned_of_toUnsigned {v : Word} {w : Byte} {m : Int} (hm : toUnsigned v w = some m) :
    (u32Bits m).toNat < 2 ^ w.toNat ∧ toSigned (u32Bits m) w = some v.toInt := by
  obtain ⟨nonneg, below, word⟩ := toUnsigned_range hm
  obtain ⟨h1, h32, low, high, hv⟩ := (toUnsigned_eq_some_iff ..).mp hm
  obtain ⟨double, pos, bound⟩ := pow2_width h1 h32
  have value : ((u32Bits m).toNat : Int) = m := u32Bits_toNat m nonneg word
  have hlt : (u32Bits m).toNat < 2 ^ w.toNat := Int.ofNat_lt.mp (by rw [value]; exact below)
  have half : (u32Bits m).toNat < 2 ^ (w.toNat - 1) ↔ ¬ v.toInt < 0 := by
    rw [← Int.ofNat_lt, value]
    change m < pow2 (w.toNat - 1) ↔ _
    split at hv <;> omega
  refine ⟨hlt, ?_⟩
  rw [toSigned_of_lt h1 h32 hlt, if_congr half rfl rfl, ite_not, value]
  rw [hv]
  split <;> simp

/-- Whenever TOSIGNED has a value, it is congruent to the operand (R113 (d)). -/
theorem toSigned_congr {u : Word} {w : Byte} {x : Int} (h : toSigned u w = some x) :
    (x - (u.toNat : Int)) % 2 ^ w.toNat = 0 := by
  obtain ⟨-, -, rfl, -, -⟩ := (toSigned_eq_some_iff ..).mp h
  rw [signedValue_eq]
  split <;> simp

end Sys2Proof.Machine

open Sys2Proof Sys2Proof.Machine

/-- Settles O16: `signedValue` is the value before the range check, and TOSIGNED answers it or refuses. -/
theorem tosignedDecodesOrRefuses : Obligations.TosignedDecodesOrRefuses := by
  intro s u w r hr
  rw [← signedValue_eq] at hr
  norm_num only
  constructor
  · intro h1 h32 low high
    exact ⟨i32Bits r, i32Bits_toInt r low high,
      exec_tosigned_of_eq_some s ((toSigned_eq_some_iff ..).mpr ⟨h1, h32, hr, low, high⟩)⟩
  · rintro refused
    exact exec_tosigned_of_eq_none s ((toSigned_eq_none_iff ..).mpr (hr ▸ refused))

/-- Settles O17: TOUNSIGNED answers the value, which is one of `w` bits, or refuses. -/
theorem tounsignedEncodesOrRefuses : Obligations.TounsignedEncodesOrRefuses := by
  intro s v w
  simp only [← pow2_eq]
  constructor
  · intro h1 h32 low high
    have answered := (toUnsigned_eq_some_iff v w _).mpr ⟨h1, h32, low, high, rfl⟩
    obtain ⟨nonneg, -, word⟩ := toUnsigned_range answered
    exact ⟨_, u32Bits_toNat _ nonneg word, exec_tounsigned_of_eq_some s answered⟩
  · intro refused
    exact exec_tounsigned_of_eq_none s ((toUnsigned_eq_none_iff ..).mpr refused)

/-- Settles O18: TOSIGNED answers every value below the modulus, and TOUNSIGNED takes the answer back. -/
theorem tounsignedUndoesTosigned : Obligations.TounsignedUndoesTosigned := by
  intro s s' u w h1 h32 hu
  have signed := toSigned_of_lt h1 h32 hu
  refine ⟨_, exec_tosigned_of_eq_some s signed, ?_⟩
  rw [exec_tounsigned_of_eq_some s' (toUnsigned_of_toSigned h1 h32 hu signed), u32Bits_natCast_toNat]
  rfl

/-- Settles O19: TOUNSIGNED answers every value of `w` bits, and TOSIGNED takes the answer back. -/
theorem tosignedUndoesTounsigned : Obligations.TosignedUndoesTounsigned := by
  intro s s' v w h1 h32 low high
  simp only [← pow2_eq] at low high
  have answered := (toUnsigned_eq_some_iff v w _).mpr ⟨h1, h32, low, high, rfl⟩
  refine ⟨_, exec_tounsigned_of_eq_some s answered, ?_⟩
  rw [exec_tosigned_of_eq_some s' (toSigned_of_toUnsigned answered).2, i32Bits_toInt_self]
  rfl

/-- Settles O20: the two pieces are what TOSIGNED answers below the modulus; a value of `w` bits is the answer to its own encoding; and
only `2^w` is ever subtracted. -/
theorem tosignedIsTheTwosComplementBijection : Obligations.TosignedIsTheTwosComplementBijection := by
  intro s w h1 h32
  refine ⟨fun u hu => ?pieces, fun n low high => ?onto, fun u r h => ?congruent⟩
  case pieces =>
    have signed := toSigned_of_lt h1 h32 hu
    obtain ⟨-, -, -, low, high⟩ := (toSigned_eq_some_iff ..).mp signed
    refine ⟨_, exec_tosigned_of_eq_some s signed, ?_⟩
    rw [i32Bits_toInt _ low high, pow2_eq]
  case onto =>
    simp only [← pow2_eq] at low high
    obtain ⟨-, -, bound⟩ := pow2_width h1 h32
    have value : (i32Bits n).toInt = n := i32Bits_toInt n (by omega) (by omega)
    have answered := (toUnsigned_eq_some_iff (i32Bits n) w _).mpr
      ⟨h1, h32, value.symm ▸ low, value.symm ▸ high, rfl⟩
    obtain ⟨hu, signed⟩ := toSigned_of_toUnsigned answered
    exact ⟨_, i32Bits n, hu, value, by rw [exec_tosigned_of_eq_some s signed, value]; rfl⟩
  case congruent =>
    obtain ⟨x, hx, rfl⟩ := toSigned_of_exec_eq_ok h
    obtain ⟨-, -, -, low, high⟩ := (toSigned_eq_some_iff ..).mp hx
    rw [i32Bits_toInt x low high]
    exact toSigned_congr hx
end

section
/-! ENCTEMP and the temperature of a word (41_temperature.md R90 to R93, 43_signed_helpers.md R113 (e)): DECTEMP and ENCTEMP are inverse on
the 13-bit counts, and they are the signed helpers at width 13. -/

namespace Sys2Proof.Machine

/-! ### What ENCTEMP responds -/

theorem exec_enctemp_of_eq_some {n : Word} {r : Half} (s : State) (h : encTemp n.toInt = some r) :
    exec (.enctemp n) s = .next (s.respond (.ok (zext32 r))) := by
  change Host.Outcome.next (s.answer ((encTemp n.toInt).map zext32)) = _
  rw [h]
  rfl

theorem exec_enctemp_of_eq_none {n : Word} (s : State) (h : encTemp n.toInt = none) :
    exec (.enctemp n) s = .next (s.raise .illegalCommand) := by
  change Host.Outcome.next (s.answer ((encTemp n.toInt).map zext32)) = _
  rw [h]
  rfl

/-- A count of 13 bits is encoded modulo 2^13, in bits 12:0 (R92). -/
theorem toNat_of_encTemp {n : Int} {r : Half} (h : encTemp n = some r) : (r.toNat : Int) = n % 8192 := by
  obtain ⟨-, -, rfl⟩ := (encTemp_eq_some_iff ..).mp h
  rw [BitVec.toNat_ofInt]
  norm_num only
  omega

theorem zext32_toNat (v : Half) : (zext32 v).toNat = v.toNat :=
  BitVec.toNat_setWidth_of_le (by decide)

/-! ### The round trips (R92) -/

/-- DECTEMP takes what ENCTEMP answers back. -/
theorem decTemp_of_encTemp {n : Int} {r : Half} (h : encTemp n = some r) : decTemp r = n := by
  obtain ⟨low, high, -⟩ := (encTemp_eq_some_iff ..).mp h
  have value := toNat_of_encTemp h
  rw [decTemp_eq]
  split <;> omega

/-- ENCTEMP of a decoded word is the word's field, without the flags. -/
theorem encTemp_decTemp (word : Half) : encTemp (decTemp word) = some (word &&& magMask) := by
  obtain ⟨low, high⟩ := decTemp_range word
  have encoded := (encTemp_eq_some_iff (decTemp word) _).mpr ⟨low, high, rfl⟩
  have value := toNat_of_encTemp encoded
  rw [encoded]
  refine congrArg some (BitVec.eq_of_toNat_eq (Int.ofNat_inj.mp ?_))
  rw [value, masked_toNat, decTemp_eq]
  split <;> omega

/-! ### Width 13 (R113 (e)) -/

/-- ENCTEMP refuses the counts TOUNSIGNED refuses at width 13. -/
theorem encTemp_eq_none_iff_toUnsigned (n : Word) : encTemp n.toInt = none ↔ toUnsigned n 13#8 = none := by
  have half : pow2 ((13#8).toNat - 1) = 4096 := rfl
  rw [encTemp_eq_none_iff, toUnsigned_eq_none_iff, half]
  have width : ¬ ((13#8).toNat < 1) ∧ ¬ (32 < (13#8).toNat) := by decide
  omega

/-- Where both answer, ENCTEMP and TOUNSIGNED at width 13 answer the same word. -/
theorem zext32_eq_u32Bits {n : Word} {r : Half} {m : Int} (h : encTemp n.toInt = some r)
    (hm : toUnsigned n 13#8 = some m) : zext32 r = u32Bits m := by
  obtain ⟨nonneg, -, word⟩ := toUnsigned_range hm
  obtain ⟨-, -, -, -, hv⟩ := (toUnsigned_eq_some_iff ..).mp hm
  obtain ⟨low, high, -⟩ := (encTemp_eq_some_iff ..).mp h
  have modulus : pow2 (13#8).toNat = 8192 := rfl
  refine BitVec.eq_of_toNat_eq (Int.ofNat_inj.mp ?_)
  rw [u32Bits_toNat m nonneg word, zext32_toNat, toNat_of_encTemp h]
  split at hv <;> omega

/-- ENCTEMP is TOUNSIGNED at width 13, refusals included. -/
theorem exec_enctemp_eq_exec_tounsigned (n : Word) (s : State) :
    exec (.enctemp n) s = exec (.tounsigned n 13#8) s := by
  have refuse := encTemp_eq_none_iff_toUnsigned n
  cases he : encTemp n.toInt with
  | none => rw [exec_enctemp_of_eq_none s he, exec_tounsigned_of_eq_none s (refuse.mp he)]
  | some r =>
    cases hu : toUnsigned n 13#8 with
    | none => exact absurd (refuse.mpr hu) (by simp [he])
    | some m => rw [exec_enctemp_of_eq_some s he, exec_tounsigned_of_eq_some s hu, zext32_eq_u32Bits he hu]

/-! ### Flags and range (R90 (a), R93) -/

/-- A decoded count is a function of the masked field. -/
theorem decTemp_congr {word word' : Half} (h : word &&& magMask = word' &&& magMask) : decTemp word = decTemp word' := by
  simp only [decTemp, h]

/-- Bits put in where the field has none do not reach the masked field. -/
theorem or_flags_masked (word flags : Half) : (word ||| (flags &&& 0xE000#16)) &&& magMask = word &&& magMask := by
  have disjoint : (0xE000#16 &&& magMask : Half) = 0#16 := by decide
  rw [BitVec.and_comm, BitVec.and_or_distrib_left, BitVec.and_comm magMask, BitVec.and_comm magMask, BitVec.and_assoc,
    disjoint, BitVec.and_zero, BitVec.or_zero]

/-- The temperature of a count of 13 bits, in degrees (R19, R93). -/
theorem celsius_range {n : Int} (low : -4096 ≤ n) (high : n ≤ 4095) : -256 ≤ celsius n ∧ celsius n ≤ 4095 / 16 := by
  have low' : (-4096 : ℚ) ≤ n := by exact_mod_cast low
  have high' : (n : ℚ) ≤ 4095 := by exact_mod_cast high
  constructor <;> unfold celsius <;> linarith

end Sys2Proof.Machine

open Sys2Proof Sys2Proof.Machine

/-- Settles O21: DECTEMP is TOSIGNED, ENCTEMP is TOUNSIGNED, each at width 13. -/
theorem temperatureCodecIsWidthThirteen : Obligations.TemperatureCodecIsWidthThirteen := by
  intro s word n
  exact ⟨exec_dectemp_eq_exec_tosigned word s, exec_enctemp_eq_exec_tounsigned n s⟩

/-- Settles O23: the counts of 13 bits are encoded modulo 2^13, the others refused. -/
theorem enctempEncodesOrRefuses : Obligations.EnctempEncodesOrRefuses := by
  intro s n
  constructor
  · intro low high
    have encoded := (encTemp_eq_some_iff n.toInt _).mpr ⟨low, high, rfl⟩
    refine ⟨_, ?_, exec_enctemp_of_eq_some s encoded⟩
    rw [zext32_toNat, toNat_of_encTemp encoded]
  · intro refused
    exact exec_enctemp_of_eq_none s ((encTemp_eq_none_iff _).mpr refused)

/-- Settles O24: each operation takes back what the other answers. -/
theorem temperatureCodecRoundTrips : Obligations.TemperatureCodecRoundTrips := by
  constructor
  · intro s s' n low high
    have encoded := (encTemp_eq_some_iff n.toInt _).mpr ⟨low, high, rfl⟩
    refine ⟨_, exec_enctemp_of_eq_some s encoded, ?_⟩
    rw [exec_dectemp, decTemp_of_encTemp encoded, i32Bits_toInt_self]
    rfl
  · intro s s' word
    obtain ⟨low, high⟩ := decTemp_range word
    have value : (i32Bits (decTemp word)).toInt = decTemp word := i32Bits_toInt _ (by omega) (by omega)
    exact ⟨_, exec_dectemp word s, exec_enctemp_of_eq_some s' (value.symm ▸ encTemp_decTemp word)⟩

/-- Settles O25: a decoded count is a function of the masked field, and its range is that of 13 bits. -/
theorem temperatureIgnoresFlagsAndStaysInRange : Obligations.TemperatureIgnoresFlagsAndStaysInRange := by
  intro word flags
  obtain ⟨low, high⟩ := decTemp_range word
  refine ⟨fun s => ?flags, ?degrees, celsius_range low high⟩
  case flags => rw [exec_dectemp, exec_dectemp, decTemp_congr (or_flags_masked word flags)]
  case degrees => exact div_mul_cancel₀ _ (by norm_num)
end

section
/-! MATCHFLAGS (42_alert_flags.md R102), bit by bit; UNPACKCFG, DECHYST and DECRES (44_config_unpack.md R120 to R122). -/

namespace Sys2Proof.Machine

/-! ### The comparator, bit by bit (R102) -/

/-- The comparator compares with the request the flags that are requested and set. -/
theorem extFlags_and_getLsbD (word req : Half) (k : Nat) (hk : k < 16) :
    (extFlags word &&& req).getLsbD k = true ↔ req.getLsbD k = true ∧ 13 ≤ k ∧ word.getLsbD k = true := by
  rw [BitVec.getLsbD_and, extFlags_getLsbD word k hk, Bool.and_eq_true, Bool.and_eq_true, decide_eq_true_iff, and_comm]

/-- Strict is all-of. -/
theorem matchFlags_strict_iff (word req : Half) :
    matchFlags word req true = true ↔ ∀ k < 16, req.getLsbD k = true → 13 ≤ k ∧ word.getLsbD k = true := by
  change decide (extFlags word &&& req = req) = true ↔ _
  rw [decide_eq_true_iff]
  constructor
  · intro h k hk hreq
    rw [← h] at hreq
    exact ((extFlags_and_getLsbD word req k hk).mp hreq).2
  · intro h
    refine BitVec.eq_of_getLsbD_eq fun k hk => Bool.eq_iff_iff.mpr ?_
    rw [extFlags_and_getLsbD word req k hk]
    exact ⟨And.left, fun hreq => ⟨hreq, h k hk hreq⟩⟩

/-- Non-strict is any-of. -/
theorem matchFlags_any_iff (word req : Half) :
    matchFlags word req false = true ↔ ∃ k < 16, req.getLsbD k = true ∧ 13 ≤ k ∧ word.getLsbD k = true := by
  change decide (extFlags word &&& req ≠ 0#16) = true ↔ _
  rw [decide_eq_true_iff, not_iff_comm]
  constructor
  · intro h
    refine BitVec.eq_of_getLsbD_eq fun k hk => ?_
    rw [BitVec.getLsbD_zero, ← Bool.not_eq_true, extFlags_and_getLsbD word req k hk]
    exact fun hbit => h ⟨k, hk, hbit⟩
  · rintro h ⟨k, hk, hbit⟩
    have := (extFlags_and_getLsbD word req k hk).mpr hbit
    rw [h, BitVec.getLsbD_zero] at this
    cases this

/-- MATCHFLAGS answers 1 where the comparator holds. -/
theorem exec_matchflags_of_true {word req : Half} {strict : Bool} (s : State) (h : matchFlags word req strict = true) :
    exec (.matchflags word req strict) s = .next (s.respond (.ok 1#32)) := by
  rw [← boolResult_true, ← h]
  rfl

/-- MATCHFLAGS answers 0 where it does not. -/
theorem exec_matchflags_of_not {word req : Half} {strict : Bool} (s : State) (h : ¬ matchFlags word req strict = true) :
    exec (.matchflags word req strict) s = .next (s.respond (.ok 0#32)) := by
  rw [← boolResult_false, ← Bool.not_eq_true _ |>.mp h]
  rfl

/-- MATCHFLAGS depends on its operands through the comparator only. -/
theorem exec_matchflags_congr {word req word' req' : Half} {strict strict' : Bool} (s : State)
    (h : matchFlags word req strict = matchFlags word' req' strict') :
    exec (.matchflags word req strict) s = exec (.matchflags word' req' strict') s := by
  change Host.Outcome.next (s.respond (.ok (boolResult _))) = _
  rw [h]
  rfl

/-- An answer of 1 says that the comparator holds. -/
theorem matchFlags_of_exec_eq_one {word req : Half} {strict : Bool} {s : State}
    (h : exec (.matchflags word req strict) s = .next (s.respond (.ok 1#32))) : matchFlags word req strict = true := by
  by_contra hno
  have responses := congrArg State.responses (Host.Outcome.next.inj ((exec_matchflags_of_not s hno).symm.trans h))
  simp at responses

/-! ### The corner cases (R102) -/

/-- A strict request that bits of the field are part of never matches (D20). -/
theorem matchFlags_strict_outside {word req : Half} (h : req &&& 0x1FFF#16 ≠ 0#16) :
    ¬ matchFlags word req true = true := by
  rw [matchFlags_strict, decide_eq_true_iff]
  intro heq
  have disjoint : (0x1FFF#16 &&& 0xE000#16 : Half) = 0#16 := by decide
  refine h ?_
  rw [← heq, BitVec.and_comm, ← BitVec.and_assoc, BitVec.and_comm word, ← BitVec.and_assoc, disjoint, BitVec.zero_and,
    BitVec.zero_and]

/-- A non-strict request counts through its flag bits only. -/
theorem matchFlags_any_masked (word req : Half) :
    matchFlags word req false = matchFlags word (req &&& 0xE000#16) false := by
  have masked : word &&& 0xE000#16 &&& (req &&& 0xE000#16) = word &&& 0xE000#16 &&& req := by
    rw [BitVec.and_comm req, ← BitVec.and_assoc, BitVec.and_assoc word, BitVec.and_self]
  rw [matchFlags_any, matchFlags_any, masked]

/-- The field bits of the word do not count. -/
theorem matchFlags_word_masked (word req : Half) (strict : Bool) :
    matchFlags word req strict = matchFlags (word &&& 0xE000#16) req strict := by
  have masked : extFlags (word &&& 0xE000#16) = extFlags word := by
    rw [extFlags_eq, extFlags_eq, BitVec.and_assoc, BitVec.and_self]
  simp only [matchFlags, masked]

/-- For a request of one bit all-of and any-of are the same. -/
theorem matchFlags_single (word : Half) (k : Nat) (hk : k < 16) :
    matchFlags word (BitVec.twoPow 16 k) true = matchFlags word (BitVec.twoPow 16 k) false := by
  rw [Bool.eq_iff_iff, matchFlags_strict_iff, matchFlags_any_iff]
  simp only [BitVec.getLsbD_twoPow, Bool.and_eq_true, decide_eq_true_iff]
  constructor
  · intro h
    exact ⟨k, hk, ⟨hk, rfl⟩, h k hk ⟨hk, rfl⟩⟩
  · rintro ⟨j, -, ⟨-, rfl⟩, hflag⟩ j' - ⟨-, rfl⟩
    exact hflag

/-- A strict match of a request that is not empty is a non-strict match. -/
theorem matchFlags_any_of_strict {word req : Half} (hreq : req ≠ 0#16) (h : matchFlags word req true = true) :
    matchFlags word req false = true := by
  rw [matchFlags_strict, decide_eq_true_iff] at h
  rw [matchFlags_any, h, decide_eq_true_iff]
  exact hreq

/-! ### Configuration (R120) -/

/-- The described fields are bits 10:0. -/
theorem configMask_getLsbD : ∀ k < 16, configMask.getLsbD k = decide (k < 11) := by decide

/-- UNPACKCFG's result, bit by bit: the word's bits 10:0 (R65, R120). -/
theorem unpackConfig_getLsbD (word : Half) (k : Nat) :
    (unpackConfig word).getLsbD k = (decide (k < 11) && word.getLsbD k) := by
  rw [unpackConfig, zext32, BitVec.getLsbD_setWidth, BitVec.getLsbD_and]
  by_cases hk : k < 16
  · rw [configMask_getLsbD k hk, show k < 32 by omega |> decide_eq_true, Bool.true_and, Bool.and_comm]
  · rw [BitVec.getLsbD_of_ge word k (by omega)]
    simp

/-- Two words with the same bits 10:0 unpack to the same result. -/
theorem unpackConfig_congr {word word' : Half} (h : ∀ k < 11, word.getLsbD k = word'.getLsbD k) :
    unpackConfig word = unpackConfig word' := by
  refine BitVec.eq_of_getLsbD_eq fun k _ => ?_
  rw [unpackConfig_getLsbD, unpackConfig_getLsbD]
  by_cases hk : k < 11
  · rw [h k hk]
  · simp [hk]

/-- The ten fields are functions of bits 10:0 of a word. -/
theorem ConfigFlags.ofWord_congr {word word' : Half} (h : ∀ k < 11, word.getLsbD k = word'.getLsbD k) :
    ConfigFlags.ofWord word = ConfigFlags.ofWord word' := by
  have hyst : word.extractLsb' 9 2 = word'.extractLsb' 9 2 := by
    refine BitVec.eq_of_getLsbD_eq fun k hk => ?_
    rw [BitVec.getLsbD_extractLsb', BitVec.getLsbD_extractLsb', h (9 + k) (by omega)]
  simp only [ConfigFlags.ofWord, hyst, h 8, h 7, h 6, h 5, h 4, h 3, h 2, h 1, h 0, Nat.reduceLT]

/-! ### Hysteresis and resolution (R121, R122) -/

/-- A 2-bit code is one of four. -/
theorem code_cases : ∀ code : BitVec 2, code = 0#2 ∨ code = 1#2 ∨ code = 2#2 ∨ code = 3#2 := by decide

/-- The step of a byte is a power of two of its code. -/
theorem resCounts_toNat : ∀ byte : Byte, (resCounts byte).toNat = 2 ^ (3 - byte.toNat % 4) := by decide

/-- The resolution code is bits 1:0. -/
theorem resCode_or_high (byte high : Byte) : resCode (byte ||| (high &&& 0xFC#8)) = resCode byte := by
  have low : (0xFC#8).extractLsb' 0 2 = 0#2 := by decide
  rw [resCode, BitVec.extractLsb'_or, BitVec.extractLsb'_and, low, BitVec.and_zero, BitVec.or_zero]
  rfl

end Sys2Proof.Machine

open Sys2Proof Sys2Proof.Machine

/-- Settles O29: strict is all-of and non-strict any-of, bit by bit, and a failed match is the negation. -/
theorem matchflagsComparesAllOfOrAnyOf : Obligations.MatchflagsComparesAllOfOrAnyOf := by
  intro s word req
  have all := matchFlags_strict_iff word req
  have any := matchFlags_any_iff word req
  refine ⟨fun h => ?_, fun ⟨k, hk, hreq, hno⟩ => ?_, fun h => ?_, fun h => ?_⟩
  · exact exec_matchflags_of_true s (all.mpr h)
  · exact exec_matchflags_of_not s fun hm => hno (all.mp hm k hk hreq)
  · exact exec_matchflags_of_true s (any.mpr h)
  · refine exec_matchflags_of_not s fun hm => ?_
    obtain ⟨k, hk, hreq, hset⟩ := any.mp hm
    exact h k hk hreq hset

/-- Settles O30: each corner case is a fact about the comparator. -/
theorem matchflagsCornerCases : Obligations.MatchflagsCornerCases := by
  intro s word req
  refine ⟨?emptyStrict, ?emptyAny, fun h => ?outside, ?request, fun strict => ?word, fun h => ?single, fun h hm => ?implies⟩
  case emptyStrict => exact exec_matchflags_of_true s ((matchFlags_strict_iff ..).mpr (by simp))
  case emptyAny => exact exec_matchflags_of_not s (by simp [matchFlags_any_iff])
  case outside => exact exec_matchflags_of_not s (matchFlags_strict_outside h)
  case request => exact exec_matchflags_congr s (matchFlags_any_masked word req)
  case word => exact exec_matchflags_congr s (matchFlags_word_masked word req strict)
  case single =>
    refine exec_matchflags_congr s ?_
    obtain rfl | rfl | rfl := h
    · exact matchFlags_single word 15 (by decide)
    · exact matchFlags_single word 14 (by decide)
    · exact matchFlags_single word 13 (by decide)
  case implies => exact exec_matchflags_of_true s (matchFlags_any_of_strict h (matchFlags_of_exec_eq_one hm))

/-- Settles O33: the result's bits 10:0 are the word's and its other bits are zero, and the fields are functions of bits 10:0. -/
theorem unpackcfgKeepsEveryFieldInPlace : Obligations.UnpackcfgKeepsEveryFieldInPlace := by
  intro s word
  refine ⟨unpackConfig word, rfl, ?zero, ?fields, rfl, fun high => ?dropped⟩
  case zero =>
    refine BitVec.eq_of_getLsbD_eq fun k _ => ?_
    rw [BitVec.getLsbD_extractLsb', unpackConfig_getLsbD]
    simp
  case fields =>
    refine ConfigFlags.ofWord_congr fun k hk => ?_
    rw [BitVec.getLsbD_setWidth, unpackConfig_getLsbD]
    simp [hk, show k < 16 by omega]
  case dropped =>
    have low : ∀ k < 11, (0xF800#16).getLsbD k = false := by decide
    have same : unpackConfig (word ||| (high &&& 0xF800#16)) = unpackConfig word :=
      unpackConfig_congr fun k hk => by rw [BitVec.getLsbD_or, BitVec.getLsbD_and, low k hk, Bool.and_false, Bool.or_false]
    exact congrArg (fun r => Host.Outcome.next (s.respond (.ok r))) same

/-- Settles O34: the four codes, one by one. -/
theorem dechystAnswersTheHysteresis : Obligations.DechystAnswersTheHysteresis := by
  intro s code
  refine ⟨hystCounts code, rfl, ?_⟩
  obtain rfl | rfl | rfl | rfl := code_cases code
  · exact ⟨rfl, by simp [celsius, hystCounts]⟩
  all_goals exact ⟨rfl, by simp [celsius, hystCounts]; norm_num⟩

/-- Settles O35: the step is a function of the code, which is bits 1:0. -/
theorem decresAnswersTheStep : Obligations.DecresAnswersTheStep := by
  intro s byte
  refine ⟨resCounts byte, rfl, resCounts_toNat byte, fun high => ?_⟩
  have same : resCounts (byte ||| (high &&& 0xFC#8)) = resCounts byte := by
    rw [resCounts, resCode_or_high, resCounts]
  exact congrArg (fun r => Host.Outcome.next (s.respond (.ok r))) same
end

section
/-! What an operation does, as a plan: it responds at once, or reads one register, or writes one (00_scope.md R5, 20_memory.md R43, R44). The
plan fixes the calls an operation makes and the responses it gives, as functions of the answers it gets (10_state.md R10). -/

namespace Sys2Proof.Machine

/-! ### Plans -/

/-- The three things an operation can do. -/
inductive Plan where
  | respond (r : Response)
  | read (ptr : Byte) (f : Half → Word)
  | write (ptr : Byte) (data : Half)

/-- The response of a pure operation that may refuse its operands (R138). -/
def answerOf : Option Word → Response
  | some v => .ok v
  | none => .error .illegalCommand

/-- The plan of an operation: no state enters. -/
def planOf : Instr → Plan
  | .rdreg ptr => if validPtr ptr then .read ptr zext32 else .respond (.error .invalidArgument)
  | .wrreg ptr data => if writablePtr ptr then .write ptr data else .respond (.error .invalidArgument)
  | .gettemp => .read ambientPtr fun word => i32Bits (decTemp word)
  | .chkflags req strict => .read ambientPtr fun word => boolResult (matchFlags word req strict)
  | .tosigned u w => .respond (answerOf ((toSigned u w).map i32Bits))
  | .tounsigned v w => .respond (answerOf ((toUnsigned v w).map u32Bits))
  | .dectemp word => .respond (.ok (i32Bits (decTemp word)))
  | .enctemp n => .respond (answerOf ((encTemp (i32Value n)).map zext32))
  | .extflags word => .respond (.ok (zext32 (extFlags word)))
  | .matchflags word req strict => .respond (.ok (boolResult (matchFlags word req strict)))
  | .unpackcfg word => .respond (.ok (unpackConfig word))
  | .dechyst code => .respond (.ok (hystCounts code))
  | .decres byte => .respond (.ok (resCounts byte))

/-- Following a plan. -/
def Plan.run (s : State) : Plan → State
  | .respond r => s.respond r
  | .read ptr f => finish f (regRead s ptr)
  | .write ptr data => finish zext32 (regWrite s ptr data)

theorem State.answer_eq_respond (s : State) (r : Option Word) : s.answer r = s.respond (answerOf r) := by
  cases r <;> rfl

/-- An operation follows its plan. -/
theorem exec_eq_run (i : Instr) (s : State) : exec i s = .next ((planOf i).run s) := by
  cases i with
  | rdreg ptr => rw [planOf, apply_ite (Plan.run s)]; rfl
  | wrreg ptr data => rw [planOf, apply_ite (Plan.run s)]; rfl
  | tosigned | tounsigned | enctemp => exact congrArg Host.Outcome.next (s.answer_eq_respond _)
  | gettemp | chkflags | dectemp | extflags | matchflags | unpackcfg | dechyst | decres => rfl

/-- The state an operation ends in is its plan's. -/
theorem eq_run_of_exec {i : Instr} {s t : State} (h : exec i s = .next t) : t = (planOf i).run s :=
  Host.Outcome.next.inj (h.symm.trans (exec_eq_run i s))

/-! ### What following a plan adds to a state -/

/-- `t` is `s` after the calls `made` and the responses `given`, as far as the block, the host and the transport's line go. -/
structure Extends (s t : State) (made : List BusEvent) (given : List Response) : Prop where
  devAddr : t.devAddr = s.devAddr
  program : t.program = s.program
  contention : t.contention = s.contention
  trace : t.trace = s.trace ++ made
  responses : t.responses = s.responses ++ given
  draws : t.draws = s.draws + made.length
  line : t.line = s.line.drop made.length

theorem Extends.refl (s : State) : Extends s s [] [] := by
  constructor <;> simp

/-- A call is recorded, uses up one listed outcome and one draw. -/
theorem Extends.call {s t : State} {made : List BusEvent} {given : List Response} (h : Extends s t made given)
    {c : BusCall} {ans : BusAnswer} (hans : t.busAnswer c = ans) :
    Extends s (t.afterCall c) (made ++ [⟨c, ans⟩]) given where
  devAddr := h.devAddr
  program := h.program
  contention := h.contention
  trace := by rw [State.afterCall_trace, h.trace, hans, List.append_assoc]
  responses := h.responses
  draws := by rw [State.afterCall_draws, h.draws, List.length_append, Nat.add_assoc]; rfl
  line := by rw [State.afterCall_line, h.line, List.tail_drop, List.length_append]; rfl

theorem Extends.respond {s t : State} {made : List BusEvent} {given : List Response} (h : Extends s t made given)
    (r : Response) : Extends s (t.respond r) made (given ++ [r]) where
  devAddr := h.devAddr
  program := h.program
  contention := h.contention
  trace := h.trace
  responses := by rw [State.respond_responses, h.responses, List.append_assoc]
  draws := h.draws
  line := h.line

/-- The calls of a plan at device `a`, given the answers to them: a read is made only after a select write that succeeded (R43). -/
def Plan.calls (a : DevAddr) : Plan → List BusAnswer → List BusCall
  | .respond _, _ => []
  | .read ptr _, .ok _ :: _ => [.write a [ptr], .read a (ptrWidth ptr)]
  | .read ptr _, _ => [.write a [ptr]]
  | .write ptr data, _ => [.write a [ptr, hiByte data, loByte data]]

/-- The responses of a plan, given the answers to its calls: none where the last is never answered (R132, R158). -/
def Plan.given : Plan → List BusAnswer → List Response
  | .respond r, _ => [r]
  | .read _ f, [.ok _, .ok bytes] => [.ok (f (wordOfBytes bytes))]
  | .write _ _, [.ok _] => [.ok 0#32]
  | _, [.ok _, .fail e] => [.error (.ioError e)]
  | _, [.fail e] => [.error (.ioError e)]
  | _, _ => []

/-- Following a plan makes its calls and gives its responses, and adds nothing else to the state. -/
theorem Plan.run_extends (p : Plan) (s : State) :
    ∃ made, Extends s (p.run s) made (p.given (made.map BusEvent.answer)) ∧
      made.map BusEvent.call = p.calls s.devAddr (made.map BusEvent.answer) := by
  have start := Extends.refl s
  cases p with
  | respond r => exact ⟨[], start.respond r, rfl⟩
  | read ptr f =>
    obtain ⟨e, h, hr⟩ | ⟨h, hr⟩ | ⟨h, _, rfl, ⟨e, h2, hr⟩ | ⟨h2, hr⟩ | ⟨bytes, h2, -, hr⟩⟩ := regRead_cases s ptr <;>
      rw [Plan.run, hr]
    · exact ⟨_, (start.call h).respond _, rfl⟩
    · exact ⟨_, start.call h, rfl⟩
    · exact ⟨_, ((start.call h).call h2).respond _, rfl⟩
    · exact ⟨_, (start.call h).call h2, rfl⟩
    · exact ⟨_, ((start.call h).call h2).respond _, rfl⟩
  | write ptr data =>
    obtain ⟨e, h, hr⟩ | ⟨h, hr⟩ | ⟨h, hr⟩ := regWrite_cases s ptr data <;> rw [Plan.run, hr]
    · exact ⟨_, (start.call h).respond _, rfl⟩
    · exact ⟨_, start.call h, rfl⟩
    · exact ⟨_, (start.call h).respond _, rfl⟩

/-! ### What a plan fixes -/

/-- A plan makes at most two calls, and one that makes none only responds. -/
theorem Plan.calls_length (p : Plan) (a : DevAddr) (answers : List BusAnswer) :
    (p.calls a answers).length ≤ 2 ∧ (p.calls a answers = [] → ∃ r, p = .respond r) := by
  cases p with
  | respond r => exact ⟨Nat.zero_le 2, fun _ => ⟨r, rfl⟩⟩
  | read ptr f =>
    unfold Plan.calls
    split <;> simp_all
  | write ptr data => exact ⟨Nat.le_succ 1, nofun⟩

/-- WRREG makes at most one call. -/
theorem planOf_wrreg_calls (ptr : Byte) (data : Half) (a : DevAddr) (answers : List BusAnswer) :
    ((planOf (.wrreg ptr data)).calls a answers).length ≤ 1 := by
  rw [planOf]
  split
  · exact Nat.le_refl 1
  · exact Nat.zero_le 1

/-- A plan gives at most one response. -/
theorem Plan.given_length (p : Plan) (answers : List BusAnswer) : (p.given answers).length ≤ 1 := by
  unfold Plan.given
  split <;> simp

/-- The first `k + 1` calls depend on the first `k` answers only. -/
theorem Plan.calls_take (p : Plan) (a : DevAddr) (answers : List BusAnswer) (k : Nat) :
    (p.calls a answers).take (k + 1) = (p.calls a (answers.take k)).take (k + 1) := by
  cases p with
  | respond r => rfl
  | write ptr data => rfl
  | read ptr f =>
    cases k with
    | zero => obtain _ | ⟨_ | _ | _, rest⟩ := answers <;> rfl
    | succ k => obtain _ | ⟨_ | _ | _, rest⟩ := answers <;> rfl

/-- A trace is its calls with its answers. -/
theorem BusEvent.list_ext {made made' : List BusEvent} (calls : made.map BusEvent.call = made'.map BusEvent.call)
    (answers : made.map BusEvent.answer = made'.map BusEvent.answer) : made = made' := by
  have rebuild (l : List BusEvent) : List.zipWith BusEvent.mk (l.map BusEvent.call) (l.map BusEvent.answer) = l := by
    rw [List.zipWith_map, List.zipWith_self]
    exact List.map_id l
  rw [← rebuild made, calls, answers, rebuild]

/-! ### History (R10, R137) -/

/-- A state with earlier responses and transactions put before its own. -/
def State.after (s : State) (rs : List Response) (tr : List BusEvent) : State :=
  { s with responses := rs ++ s.responses, trace := tr ++ s.trace }

/-- A state without its history. -/
def State.fresh (s : State) : State := { s with responses := [], trace := [] }

/-- A state with another history is its fresh state after that history. -/
theorem State.fresh_after (s : State) (rs : List Response) (tr : List BusEvent) :
    s.fresh.after rs tr = { s with responses := rs, trace := tr } := by
  simp [State.fresh, State.after]

section
variable (s : State) (rs : List Response) (tr : List BusEvent)

theorem State.after_respond (r : Response) : (s.after rs tr).respond r = (s.respond r).after rs tr := by
  simp [State.respond, State.after]

theorem State.after_busAnswer (c : BusCall) : (s.after rs tr).busAnswer c = s.busAnswer c := rfl

theorem State.after_afterCall (c : BusCall) : (s.after rs tr).afterCall c = (s.afterCall c).after rs tr := by
  have answer := s.after_busAnswer rs tr c
  simp only [State.afterCall, answer]
  simp only [State.after, List.append_assoc]
  rfl

theorem after_regRead (ptr : Byte) :
    regRead (s.after rs tr) ptr = ((regRead s ptr).1, (regRead s ptr).2.after rs tr) := by
  have select : selectCall (s.after rs tr) ptr = selectCall s ptr := rfl
  have read (u : State) : readCall (u.after rs tr) ptr = readCall u ptr := rfl
  simp only [regRead, select, State.after_busAnswer, State.after_afterCall, read]
  split
  · rfl
  · rfl
  · split <;> rfl

theorem after_regWrite (ptr : Byte) (data : Half) :
    regWrite (s.after rs tr) ptr data = ((regWrite s ptr data).1, (regWrite s ptr data).2.after rs tr) := by
  have write : writeCall (s.after rs tr) ptr data = writeCall s ptr data := rfl
  simp only [regWrite, write, State.after_busAnswer, State.after_afterCall]
  split <;> rfl

theorem after_finish (f : Half → Word) (r : RegResult) : finish f (r, s.after rs tr) = (finish f (r, s)).after rs tr := by
  cases r with
  | value v => exact s.after_respond rs tr _
  | ioError e => exact s.after_respond rs tr _
  | hung => rfl

/-- No plan reads the history. -/
theorem Plan.run_after (p : Plan) : p.run (s.after rs tr) = (p.run s).after rs tr := by
  cases p with
  | respond r => exact s.after_respond rs tr r
  | read ptr f => rw [Plan.run, after_regRead, after_finish]; rfl
  | write ptr data => rw [Plan.run, after_regWrite, after_finish]; rfl

end

/-! ### IllegalCommand (R138) -/

/-- A register access does not end with `IllegalCommand`. -/
theorem finish_not_illegalCommand (f : Half → Word) (r : RegResult × State) :
    (finish f r).responses ≠ r.2.responses ++ [.error .illegalCommand] := by
  obtain ⟨v | e | _, s⟩ := r <;> simp

/-- Only a plan to respond so ends with `IllegalCommand`. -/
theorem Plan.eq_of_illegalCommand {p : Plan} {s : State}
    (h : (p.run s).responses = s.responses ++ [.error .illegalCommand]) : p = .respond (.error .illegalCommand) := by
  cases p with
  | respond r =>
    change s.responses ++ [r] = _ at h
    rw [List.append_cancel_left_eq, List.singleton_inj] at h
    rw [h]
  | read ptr f => exact absurd (regRead_responses s ptr ▸ h) (finish_not_illegalCommand f (regRead s ptr))
  | write ptr data => exact absurd (regWrite_responses s ptr data ▸ h) (finish_not_illegalCommand zext32 (regWrite s ptr data))

/-- The operations that may plan to respond `IllegalCommand`: the codecs with a domain (D9, D10, D11). -/
theorem planOf_illegalCommand {i : Instr} (h : planOf i = .respond (.error .illegalCommand)) :
    (∃ u w, i = .tosigned u w) ∨ (∃ v w, i = .tounsigned v w) ∨ ∃ n, i = .enctemp n := by
  cases i with
  | tosigned u w => exact .inl ⟨u, w, rfl⟩
  | tounsigned v w => exact .inr (.inl ⟨v, w, rfl⟩)
  | enctemp n => exact .inr (.inr ⟨n, rfl⟩)
  | rdreg | wrreg =>
    rw [planOf] at h
    split at h <;> cases h
  | gettemp | chkflags | dectemp | extflags | matchflags | unpackcfg | dechyst | decres => cases h

/-- A codec's answer is a result or `IllegalCommand`. -/
theorem answerOf_ne (r : Option Word) :
    (∀ e, answerOf r ≠ .error (.ioError e)) ∧ answerOf r ≠ .error .invalidArgument := by
  cases r <;> simp [answerOf]

end Sys2Proof.Machine

open Sys2Proof Sys2Proof.Machine

/-- Settles O45: an illegal word raises the error itself, and an operation that ends with it planned to respond so, at once. -/
theorem illegalCommandMakesNoTransportCall : Obligations.IllegalCommandMakesNoTransportCall := by
  intro s t cmd rest hc hw hp hstep hresponse
  rw [step_takes s cmd rest hc hw hp] at hstep
  cases hd : decode cmd with
  | none =>
    rw [runCommand_of_decode_none _ hd, State.sent_eq hp] at hstep
    exact ⟨(Host.Outcome.next.inj hstep).symm, .inl rfl⟩
  | some i =>
    rw [runCommand_of_decode_some _ hd] at hstep
    obtain rfl := eq_run_of_exec hstep
    have plan := Plan.eq_of_illegalCommand hresponse
    rw [plan, State.sent_eq hp]
    refine ⟨rfl, .inr ?_⟩
    simpa only [Option.some.injEq] using planOf_illegalCommand plan

/-- Settles O47: following a plan commutes with putting a history before the state. -/
theorem historyChangesNothing : Obligations.HistoryChangesNothing := by
  intro i s
  have run (rs : List Response) (tr : List BusEvent) :
      exec i { s with responses := rs, trace := tr } = .next (((planOf i).run s.fresh).after rs tr) := by
    rw [exec_eq_run, ← Plan.run_after s.fresh rs tr, State.fresh_after]
  exact ⟨_, _, _, run s.responses s.trace, rfl, rfl, run⟩

/-- Settles O48: a pure operation plans to respond, whatever the state, and its response is a result or `IllegalCommand`. -/
theorem pureOperationsOnlyRespond : Obligations.PureOperationsOnlyRespond := by
  intro i hi
  cases i with
  | rdreg | wrreg | gettemp | chkflags => cases hi
  | tosigned | tounsigned | enctemp =>
    obtain ⟨noIo, noArg⟩ := answerOf_ne _
    exact ⟨_, noIo, noArg, fun s => exec_eq_run _ s⟩
  | dectemp | extflags | matchflags | unpackcfg | dechyst | decres =>
    exact ⟨.ok _, nofun, nofun, fun s => exec_eq_run _ s⟩

/-- Settles O49: an operation extends the state by its plan's calls and responses; one that makes no call only responds. -/
theorem everyOperationKeepsItsFrame : Obligations.EveryOperationKeepsItsFrame := by
  intro i s
  obtain ⟨made, ext, hcalls⟩ := (planOf i).run_extends s
  have length : made.length = ((planOf i).calls s.devAddr (made.map BusEvent.answer)).length := by
    rw [← hcalls, List.length_map]
  obtain ⟨two, onlyResponds⟩ := (planOf i).calls_length s.devAddr (made.map BusEvent.answer)
  refine ⟨_, exec_eq_run i s, ext.devAddr, ext.program, ext.contention, ⟨_, ext.responses, Plan.given_length _ _⟩,
    made, ext.trace, length ▸ two, ext.draws, ext.line, ?quiet, ?write⟩
  case quiet =>
    rintro rfl
    obtain ⟨r, hr⟩ := onlyResponds hcalls.symm
    rw [hr]
    exact ⟨rfl, rfl⟩
  case write =>
    rintro ptr data rfl
    exact length ▸ planOf_wrreg_calls ptr data s.devAddr _

/-- Settles O51: the plan is the same in both states, and the answers fix its calls, one after the other, and its responses. -/
theorem sameCommandSameTransactions : Obligations.SameCommandSameTransactions := by
  refine ⟨rfl, fun i s s' t t' hdev ht ht' => ?_⟩
  obtain rfl := eq_run_of_exec ht
  obtain rfl := eq_run_of_exec ht'
  obtain ⟨made, ext, hcalls⟩ := (planOf i).run_extends s
  obtain ⟨made', ext', hcalls'⟩ := (planOf i).run_extends s'
  rw [← hdev] at hcalls'
  refine ⟨ext.devAddr, made, made', _, _, ext.trace, ext'.trace, ext.responses, ext'.responses, fun k hk => ?_, fun h => ?_⟩
  · rw [List.map_take, List.map_take] at hk ⊢
    rw [hcalls, hcalls', Plan.calls_take, hk, ← Plan.calls_take]
  · exact ⟨BusEvent.list_ext (by rw [hcalls, hcalls', h]) h, by rw [h]⟩
end

section
/-! Register access on the bus (20_memory.md R40 to R45, 40_register_access.md, 41_temperature.md R90, 42_alert_flags.md R100,
70_reset_and_hazards.md R152, R158): the three reading operations by one set of laws, WRREG, the transport call, and the two sensors. -/

namespace Sys2Proof.Machine

/-! ### An operation that plans to read: one law for each way its two calls can go (R43) -/

section
variable {i : Instr} {s : State} {ptr : Byte} {f : Half → Word}

/-- An operation that plans to read ends on its register read. -/
theorem exec_of_read (hi : planOf i = .read ptr f) : exec i s = .next (finish f (regRead s ptr)) := by
  rw [exec_eq_run, hi]
  rfl

theorem exec_read_select_failed (hi : planOf i = .read ptr f) {e : IoErr}
    (h : s.busAnswer (selectCall s ptr) = .fail e) :
    exec i s = .next ((s.afterCall (selectCall s ptr)).raise (.ioError e)) := by
  rw [exec_of_read hi, regRead_select_fail s ptr e h, finish_ioError]

theorem exec_read_select_silent (hi : planOf i = .read ptr f) (h : s.busAnswer (selectCall s ptr) = .silent) :
    exec i s = .next (s.afterCall (selectCall s ptr)) := by
  rw [exec_of_read hi, regRead_select_silent s ptr h, finish_hung]

theorem exec_read_failed (hi : planOf i = .read ptr f) {e : IoErr} (h : s.busAnswer (selectCall s ptr) = .ok [])
    (h2 : (s.afterCall (selectCall s ptr)).busAnswer (readCall s ptr) = .fail e) :
    exec i s = .next (((s.afterCall (selectCall s ptr)).afterCall (readCall s ptr)).raise (.ioError e)) := by
  rw [exec_of_read hi, regRead_read_fail s ptr e [] h h2, finish_ioError]

theorem exec_read_silent (hi : planOf i = .read ptr f) (h : s.busAnswer (selectCall s ptr) = .ok [])
    (h2 : (s.afterCall (selectCall s ptr)).busAnswer (readCall s ptr) = .silent) :
    exec i s = .next ((s.afterCall (selectCall s ptr)).afterCall (readCall s ptr)) := by
  rw [exec_of_read hi, regRead_read_silent s ptr [] h h2, finish_hung]

theorem exec_read_done (hi : planOf i = .read ptr f) {bytes : List Byte} {word : Half}
    (h : s.busAnswer (selectCall s ptr) = .ok [])
    (h2 : (s.afterCall (selectCall s ptr)).busAnswer (readCall s ptr) = .ok bytes) (hword : wordOfBytes bytes = word) :
    exec i s = .next (((s.afterCall (selectCall s ptr)).afterCall (readCall s ptr)).respond (.ok (f word))) := by
  rw [exec_of_read hi, regRead_ok s ptr [] bytes h h2, finish_value, hword]

end

/-- Two operations that read one register end alike but for what they make of its word. -/
theorem exec_reads_agree {i j : Instr} {ptr : Byte} {f g : Half → Word} (hi : planOf i = .read ptr f)
    (hj : planOf j = .read ptr g) (s : State) : ∃ t t' : State,
      exec i s = .next t ∧ exec j s = .next t' ∧ t' = { t with responses := t'.responses } ∧
      ((t.responses = s.responses ∧ t'.responses = s.responses ∧ t.waiting ≠ none) ∨
        (∃ e, t.responses = s.responses ++ [.error (.ioError e)] ∧ t'.responses = t.responses) ∨
        ∃ word, t.responses = s.responses ++ [.ok (f word)] ∧ t'.responses = s.responses ++ [.ok (g word)]) := by
  refine ⟨_, _, exec_of_read hi, exec_of_read hj, ?_⟩
  obtain ⟨e, h, hr⟩ | ⟨h, hr⟩ | ⟨h, _, rfl, ⟨e, h2, hr⟩ | ⟨h2, hr⟩ | ⟨bytes, h2, -, hr⟩⟩ := regRead_cases s ptr <;> rw [hr]
  · exact ⟨rfl, .inr (.inl ⟨e, rfl, rfl⟩)⟩
  · exact ⟨rfl, .inl ⟨rfl, rfl, by rw [finish_hung, (State.afterCall_of_silent h).1]; nofun⟩⟩
  · exact ⟨rfl, .inr (.inl ⟨e, rfl, rfl⟩)⟩
  · exact ⟨rfl, .inl ⟨rfl, rfl, by rw [finish_hung, (State.afterCall_of_silent h2).1]; nofun⟩⟩
  · exact ⟨rfl, .inr (.inr ⟨_, rfl, rfl⟩)⟩

/-! ### RDREG and WRREG in contract (R80, R81) -/

theorem planOf_rdreg {ptr : Byte} (low : 0x01 ≤ ptr.toNat) (high : ptr.toNat ≤ 0x08) :
    planOf (.rdreg ptr) = .read ptr zext32 :=
  if_pos ((validPtr_iff ptr).mpr ⟨low, high⟩)

theorem planOf_wrreg {ptr : Byte} (data : Half) (low : 0x01 ≤ ptr.toNat) (high : ptr.toNat ≤ 0x04) :
    planOf (.wrreg ptr data) = .write ptr data :=
  if_pos ((writablePtr_iff ptr).mpr ⟨low, high⟩)

/-- The read transaction by the pointer's number. -/
theorem readCall_eq (s : State) {ptr : Byte} (high : ptr.toNat ≤ 0x08) :
    readCall s ptr = .read s.devAddr (if ptr.toNat = 0x08 then 1 else 2) := by
  rw [readCall, ptrWidth_eq ptr high]

/-- One byte received is the result, zero-extended. -/
theorem zext32_byte (b : Byte) : zext32 (b.setWidth 16) = b.setWidth 32 :=
  BitVec.setWidth_setWidth (by decide)

/-- The flag comparison of CHKFLAGS, written out (R100). -/
theorem boolResult_matchFlags (word req : Half) (strict : Bool) :
    boolResult (matchFlags word req strict) =
      if (strict = true ∧ word &&& 0xE000#16 &&& req = req) ∨ (strict = false ∧ word &&& 0xE000#16 &&& req ≠ 0#16)
        then 1#32 else 0#32 := by
  cases strict with
  | true => simp [boolResult, matchFlags_strict]
  | false => simp [boolResult, matchFlags_any]

/-! ### A call that is carried (R41) -/

/-- Whether a sensor answers at an address depends on which sensor it is only. -/
theorem Sensor.answersAt_congr {v v' : Sensor} (h : v.model = v'.model) (a : DevAddr) : v.answersAt a = v'.answersAt a := by
  simp only [Sensor.answersAt, h]

theorem Sensor.answersAt_oracle {v : Sensor} {reads : List Half} (h : v.model = .oracle reads) (a : DevAddr) :
    v.answersAt a = true := by
  simp only [Sensor.answersAt, h]

theorem Sensor.answersAt_sim {v : Sensor} {amb : List Half} {addr : DevAddr} (h : v.model = .sim amb addr) (a : DevAddr) :
    v.answersAt a = decide (a = addr) := by
  simp only [Sensor.answersAt, h]

/-- A carried write at the sensor's address succeeds. -/
theorem State.transfer_write {s : State} {a : DevAddr} (hd : s.delivery = .carried) (ha : s.sensor.answersAt a = true)
    (bytes : List Byte) : s.transfer (.write a bytes) = (.ok [], s.sensor.takeWrite s.draws bytes) := by
  rw [State.transfer_carried s _ hd, Sensor.serve]
  exact if_pos ha

/-- A carried read at the sensor's address shows its word. -/
theorem State.transfer_read {s : State} {a : DevAddr} (hd : s.delivery = .carried) (ha : s.sensor.answersAt a = true)
    (n : Nat) : s.transfer (.read a n) =
      (.ok (bytesOf n (s.sensor.readWord s.draws)), s.sensor.afterRead s.draws) := by
  rw [State.transfer_carried s _ hd, Sensor.serve]
  exact if_pos ha

/-- A carried call to another address fails and changes nothing in the sensor (R152). -/
theorem State.transfer_other {s : State} {c : BusCall} (hd : s.delivery = .carried)
    (ha : s.sensor.answersAt c.addr = false) :
    s.transfer c = (.fail (Config.otherAddressError s.draws), s.sensor) := by
  rw [State.transfer_carried s _ hd]
  exact if_neg (ne_true_of_eq_false ha)

/-- What is known of a call's transfer is known of the state after it. -/
theorem State.afterCall_of_transfer {s : State} {c : BusCall} {bytes : List Byte} {v : Sensor}
    (h : s.transfer c = (.ok bytes, v)) :
    s.busAnswer c = .ok bytes ∧ s.afterCall c = { s with
      line := s.line.tail, draws := s.draws + 1, sensor := v, trace := s.trace ++ [⟨c, .ok bytes⟩] } := by
  have answer : s.busAnswer c = .ok bytes := congrArg Prod.fst h
  have sensor : (s.transfer c).2 = v := congrArg Prod.snd h
  refine ⟨answer, ?_⟩
  simp only [State.afterCall, answer, sensor]
  rfl

/-- The state after a carried register write. -/
theorem exec_wrreg_carried {s : State} {ptr : Byte} {data : Half} {later : List Delivery} (low : 0x01 ≤ ptr.toNat)
    (high : ptr.toNat ≤ 0x04) (hline : s.line = .carried :: later) (ha : s.sensor.answersAt s.devAddr = true) :
    exec (.wrreg ptr data) s = .next { s with
      line := later, draws := s.draws + 1,
      trace := s.trace ++ [⟨writeCall s ptr data, .ok []⟩],
      sensor := s.sensor.takeWrite s.draws [ptr, hiByte data, loByte data],
      responses := s.responses ++ [.ok 0#32] } := by
  obtain ⟨answer, after⟩ := State.afterCall_of_transfer
    (State.transfer_write (s.delivery_listed _ _ hline) ha [ptr, hiByte data, loByte data])
  rw [exec_eq_run, planOf_wrreg data low high, Plan.run, regWrite_ok s ptr data [] answer, finish_value, writeCall, after,
    hline]
  rfl

/-- The state after a register read both of whose calls are carried: the select write reaches the sensor, then the read. -/
theorem exec_read_carried {i : Instr} {s : State} {ptr : Byte} {f : Half → Word} {later : List Delivery} {v : Sensor}
    {word : Half} (hi : planOf i = .read ptr f) (hline : s.line = .carried :: .carried :: later)
    (ha : s.sensor.answersAt s.devAddr = true) (hv : s.sensor.takeWrite s.draws [ptr] = v)
    (hword : v.readWord (s.draws + 1) = word) :
    exec i s = .next { s with
      line := later, draws := s.draws + 2,
      trace := s.trace ++ [⟨.write s.devAddr [ptr], .ok []⟩,
        ⟨.read s.devAddr (ptrWidth ptr), .ok (bytesOf (ptrWidth ptr) word)⟩],
      sensor := v.afterRead (s.draws + 1),
      responses := s.responses ++ [.ok (f (wordOfBytes (bytesOf (ptrWidth ptr) word)))] } := by
  obtain ⟨answer, after⟩ := State.afterCall_of_transfer (State.transfer_write (s.delivery_listed _ _ hline) ha [ptr])
  rw [hv, hline, List.tail_cons] at after
  have ha' : v.answersAt s.devAddr = true := by
    rw [← ha, ← hv]
    exact Sensor.answersAt_congr (Sensor.takeWrite_model ..) _
  have read := State.transfer_read (s := s.afterCall (selectCall s ptr)) (a := s.devAddr) (by rw [selectCall, after]; rfl)
    (by rw [selectCall, after]; exact ha') (ptrWidth ptr)
  obtain ⟨answer2, after2⟩ := State.afterCall_of_transfer read
  rw [exec_read_done hi answer answer2 rfl, readCall, after2, selectCall, after]
  simp only [hword]
  simp [State.respond, List.append_assoc]

/-! ### The two sensors (R27, R152) -/

/-- What a select write does to `SimSensor`. -/
theorem Sensor.takeWrite_sim_select {v : Sensor} {amb : List Half} {addr : DevAddr} (h : v.model = .sim amb addr)
    (n : Nat) (q : Byte) : v.takeWrite n [q] = { v with ptr := q } := by
  simp only [Sensor.takeWrite, h]

/-- What a write of a writable register does to `SimSensor`. -/
theorem Sensor.takeWrite_sim_register {v : Sensor} {amb : List Half} {addr : DevAddr} (h : v.model = .sim amb addr)
    (n : Nat) {q : Byte} (hq : writablePtr q = true) (data : Half) :
    v.takeWrite n [q, hiByte data, loByte data] = ({ v with ptr := q } : Sensor).setReg q data := by
  simp only [Sensor.takeWrite, h, hq, if_true, hiByte_append_loByte]

/-- `SimSensor` is as it was after a read of another register than the ambient one. -/
theorem Sensor.afterRead_sim_other {v : Sensor} {amb : List Half} {addr : DevAddr} (h : v.model = .sim amb addr)
    (hptr : v.ptr ≠ ambientPtr) (n : Nat) : v.afterRead n = v := by
  cases amb with
  | nil => simp only [Sensor.afterRead, h]
  | cons x rest => simp only [Sensor.afterRead, h, if_neg hptr]

/-- An ambient read of `SimSensor` takes the next sample into the register. -/
theorem Sensor.afterRead_sim_ambient {v : Sensor} {x : Half} {rest : List Half} {addr : DevAddr}
    (h : v.model = .sim (x :: rest) addr) (hptr : v.ptr = ambientPtr) (n : Nat) :
    v.afterRead n = { v with ambient := x, model := .sim rest addr } := by
  simp only [Sensor.afterRead, h, if_pos hptr]

/-- With no sample to come a read changes nothing in `SimSensor`. -/
theorem Sensor.afterRead_sim_nil {v : Sensor} {addr : DevAddr} (h : v.model = .sim [] addr) (n : Nat) :
    v.afterRead n = v := by
  simp only [Sensor.afterRead, h]

/-- A call that did not succeed leaves `SimSensor` as it was. -/
theorem Sensor.afterFailure_sim {v : Sensor} {amb : List Half} {addr : DevAddr} (h : v.model = .sim amb addr) (n : Nat) :
    v.afterFailure n = v := by
  simp only [Sensor.afterFailure, h]

/-- The word the oracle shows: the next listed one, or a free value. -/
theorem Sensor.readWord_oracle_getD {v : Sensor} {reads : List Half} (h : v.model = .oracle reads) (n : Nat) :
    v.readWord n = reads.head?.getD (Config.shownWord n v.ptr) := by
  cases reads <;> simp [Sensor.readWord, h]

/-- The registers and the pointer of an unsettled sensor depend on the draw alone. -/
theorem Sensor.unsettled_congr (v v' : Sensor) (n : Nat) (m : SensorModel) :
    ({ v.unsettled n with model := m } : Sensor) = { v'.unsettled n with model := m } := rfl

/-- Under `SimSensor` a writable register holds what WRREG wrote, and the others what they held. -/
theorem Sensor.setReg_writable (v : Sensor) {ptr : Byte} (data : Half) (low : 0x01 ≤ ptr.toNat) (high : ptr.toNat ≤ 0x04)
    (n : Nat) : ((v.setReg ptr data).reg n ptr = data) ∧
      ∀ q : Byte, 0x01 ≤ q.toNat → q.toNat ≤ 0x08 → q ≠ ptr → (v.setReg ptr data).reg n q = v.reg n q := by
  have valid : validPtr ptr = true := (validPtr_iff ptr).mpr ⟨low, by omega⟩
  constructor
  · exact v.reg_setReg_same n ptr data valid (by rintro rfl; exact absurd high (by decide))
  · intro q qlow qhigh hq
    exact v.reg_setReg_other n ptr q data valid ((validPtr_iff q).mpr ⟨qlow, qhigh⟩) hq

/-- GETTEMP under `SimSensor`, both calls carried, from the sensor `u` that the select write leaves to the sensor `v` that the read
leaves: it answers what the ambient register then holds. -/
theorem exec_gettemp_sim {s : State} {amb : List Half} {later : List Delivery} {u v : Sensor} {x : Half}
    (hline : s.line = .carried :: .carried :: later) (hm : s.sensor.model = .sim amb s.devAddr)
    (hu : ({ s.sensor with ptr := 0x05#8 } : Sensor) = u) (hv : u.afterRead (s.draws + 1) = v) (hx : v.ambient = x) :
    exec .gettemp s = .next { s with
      line := later, draws := s.draws + 2,
      trace := s.trace ++ [⟨.write s.devAddr [0x05#8], .ok []⟩, ⟨.read s.devAddr 2, .ok [hiByte x, loByte x]⟩],
      sensor := v,
      responses := s.responses ++ [.ok ((x.extractLsb' 0 13).signExtend 32)] } := by
  have plan : planOf .gettemp = .read 0x05#8 fun word => i32Bits (decTemp word) := rfl
  have width : ptrWidth 0x05#8 = 2 := rfl
  have address : s.sensor.answersAt s.devAddr = true := by rw [Sensor.answersAt_sim hm, decide_eq_true rfl]
  have select : s.sensor.takeWrite s.draws [0x05#8] = u := (Sensor.takeWrite_sim_select hm _ _).trans hu
  have model : u.model = .sim amb s.devAddr := by rw [← select, Sensor.takeWrite_model, hm]
  have ptr : u.ptr = ambientPtr := by rw [← select, Sensor.takeWrite_select_ptr, ambientPtr]
  have shown : u.readWord (s.draws + 1) = x := by
    rw [Sensor.readWord_sim u _ amb s.devAddr model, hv, ptr, ← hx]
    rfl
  rw [exec_read_carried plan hline address select shown, hv, width, bytesOf_two, wordOfBytes_pair, hiByte_append_loByte,
    i32Bits_decTemp]

end Sys2Proof.Machine

open Sys2Proof Sys2Proof.Machine

/-- Settles O26: GETTEMP plans to read the ambient register, and decodes the word of the two bytes. -/
theorem gettempReadsAndDecodes : Obligations.GettempReadsAndDecodes := by
  rintro s s1 rfl
  have plan : planOf .gettemp = .read 0x05#8 _ := rfl
  refine ⟨fun e h => exec_read_select_failed plan h, fun h => ⟨State.afterCall_select_ptr s _ _ _ h, ?_⟩⟩
  rintro s2 rfl
  refine ⟨fun e h2 => exec_read_failed plan h h2, fun b0 b1 h2 => ?_⟩
  rw [exec_read_done plan h h2 (wordOfBytes_pair b0 b1), i32Bits_decTemp]
  rfl

/-- Settles O31: CHKFLAGS plans to read the ambient register, and compares the flags of the word of the two bytes. -/
theorem chkflagsReadsAndCompares : Obligations.ChkflagsReadsAndCompares := by
  rintro s s1 req strict rfl
  have plan : planOf (.chkflags req strict) = .read 0x05#8 _ := rfl
  refine ⟨fun e h => exec_read_select_failed plan h, fun h => ⟨State.afterCall_select_ptr s _ _ _ h, ?_⟩⟩
  rintro s2 rfl
  refine ⟨fun e h2 => exec_read_failed plan h h2, ?_⟩
  rintro b0 b1 h2 a rfl
  rw [exec_read_done plan h h2 (wordOfBytes_pair b0 b1), boolResult_matchFlags]
  rfl

/-- Settles O27: both read the ambient register, and GETTEMP responds what DECTEMP makes of the word. -/
theorem gettempIsRdregThenDectemp : Obligations.GettempIsRdregThenDectemp := by
  intro s
  obtain ⟨t, t', ht, ht', same, outcome⟩ :=
    exec_reads_agree (planOf_rdreg (ptr := 0x05#8) (by decide) (by decide)) (j := .gettemp) rfl s
  refine ⟨t, t', ht, ht', same, ?_⟩
  obtain hung | failed | ⟨word, hr, hr'⟩ := outcome
  · exact .inl hung
  · exact .inr (.inl failed)
  · exact .inr (.inr ⟨word, _, hr, hr', exec_dectemp word s⟩)

/-- Settles O32: both read the ambient register, and CHKFLAGS responds what MATCHFLAGS makes of the word. -/
theorem chkflagsIsRdregThenMatchflags : Obligations.ChkflagsIsRdregThenMatchflags := by
  intro s req strict
  obtain ⟨t, t', ht, ht', same, outcome⟩ :=
    exec_reads_agree (planOf_rdreg (ptr := 0x05#8) (by decide) (by decide)) (j := .chkflags req strict) rfl s
  refine ⟨t, t', ht, ht', same, ?_⟩
  obtain hung | failed | ⟨word, hr, hr'⟩ := outcome
  · exact .inl hung
  · exact .inr (.inl failed)
  · exact .inr (.inr ⟨word, _, hr, hr', exec_eq_run _ s⟩)

/-- Settles O36: a refused pointer makes no call; any other plans to read its register, as wide as its pointer says. -/
theorem rdregReadsTheRegister : Obligations.RdregReadsTheRegister := by
  intro s ptr
  constructor
  · intro refused
    exact exec_of_pointerRefused _ s ((validPtr_eq_false_iff ptr).mpr refused)
  · rintro low high s1 rfl
    have plan := planOf_rdreg low high
    refine ⟨fun e h => exec_read_select_failed plan h, fun h => ⟨State.afterCall_select_ptr s _ _ _ h, ?_⟩⟩
    rintro c s2 hc rfl
    rw [← readCall_eq s high] at hc
    subst hc
    refine ⟨fun e h2 => exec_read_failed plan h h2, fun b0 b1 _ h2 => ?_, fun b _ h2 => ?_⟩
    · exact exec_read_done plan h h2 (wordOfBytes_pair b0 b1)
    · rw [exec_read_done plan h h2 (wordOfBytes_single b), zext32_byte]
      rfl

/-- Settles O37: both calls are carried, the sensor shows its next word, and the read brings its two bytes or its low one. -/
theorem rdregAnswersTheWordShown : Obligations.RdregAnswersTheWordShown := by
  intro s ptr x rest later low high hline hmodel
  have model : (s.sensor.takeWrite s.draws [ptr]).model = .oracle (x :: rest) := by rw [Sensor.takeWrite_model, hmodel]
  have shown := Sensor.readWord_oracle _ (s.draws + 1) x rest model
  have run := exec_read_carried (planOf_rdreg low high) hline (Sensor.answersAt_oracle hmodel _) rfl shown
  refine ⟨_, run, rfl, Sensor.afterRead_oracle_model _ _ _ model, rfl, fun wide => ?_, fun narrow => ?_⟩
  · simp only [ptrWidth_eq ptr high, if_neg wide, bytesOf_two, wordOfBytes_pair, hiByte_append_loByte]
    exact ⟨rfl, rfl⟩
  · simp only [ptrWidth_eq ptr high, if_pos narrow, bytesOf_one, wordOfBytes_single, zext32_byte]
    exact ⟨rfl, rfl⟩

/-- Settles O38: a refused pointer makes no call; any other plans to write, and the one call's answer is the operation's. -/
theorem wrregWritesTheRegister : Obligations.WrregWritesTheRegister := by
  intro s ptr data
  constructor
  · intro refused
    exact exec_of_pointerRefused _ s ((writablePtr_eq_false_iff ptr).mpr refused)
  · rintro low high c s1 rfl rfl
    rw [exec_eq_run, planOf_wrreg data low high, Plan.run]
    refine ⟨fun e h => ?_, fun h => ?_⟩
    · rw [regWrite_fail s ptr data e h]
      rfl
    · rw [regWrite_ok s ptr data [] h]
      rfl

/-- Settles O39: the answer is the transfer's, and the state after the call is a literal. -/
theorem transportCallIsAnsweredAndRecorded : Obligations.TransportCallIsAnsweredAndRecorded := by
  intro s c
  refine ⟨fun e h => ?failed, fun h => ?silent, fun reads hd hm => ⟨?write, ?read⟩, rfl, fun h => ?hung, fun h => ?answered,
    rfl, rfl, rfl⟩
  case failed => exact congrArg Prod.fst (s.transfer_failed c e h)
  case silent => exact congrArg Prod.fst (s.transfer_silent c h)
  case write =>
    rintro a bytes rfl
    exact congrArg Prod.fst (State.transfer_write hd (Sensor.answersAt_oracle hm a) bytes)
  case read =>
    rintro a n rfl hn
    exact ⟨_, congrArg Prod.fst (State.transfer_read hd (Sensor.answersAt_oracle hm a) n), bytesOf_length n _ hn⟩
  case hung => exact (State.afterCall_of_silent h).1
  case answered => exact State.afterCall_waiting_of_answered h

/-- Settles O40: a call that is not carried leaves `SimSensor`, and a carried one reaches it at its own address only. -/
theorem simSensorIsUntouchedByFailedCalls : Obligations.SimSensorIsUntouchedByFailedCalls := by
  intro s c amb addr hm
  refine ⟨fun hd => ?_, fun hd haddr => ?_⟩
  · rw [State.afterCall_sensor]
    cases hdel : s.delivery with
    | carried => exact absurd hdel hd
    | failed e => rw [s.transfer_failed c e hdel, Sensor.afterFailure_sim hm]
    | silent => rw [s.transfer_silent c hdel, Sensor.afterFailure_sim hm]
  · have other := State.transfer_other (c := c) hd (by rw [Sensor.answersAt_sim hm, decide_eq_false haddr])
    exact ⟨⟨_, congrArg Prod.fst other⟩, congrArg Prod.snd other⟩

/-- Settles O41: the write sets the register, and the select write and the read leave the sensor as the write left it. -/
theorem simSensorReadsBackAWrite : Obligations.SimSensorReadsBackAWrite := by
  intro s ptr data amb later low high hm hline
  have writable : writablePtr ptr = true := (writablePtr_iff ptr).mpr ⟨low, high⟩
  have written := Sensor.takeWrite_sim_register hm s.draws writable data
  have run := exec_wrreg_carried (data := data) low high hline (by rw [Sensor.answersAt_sim hm, decide_eq_true rfl])
  rw [written] at run
  obtain ⟨same, other⟩ := Sensor.setReg_writable { s.sensor with ptr := ptr } data low high s.draws
  obtain ⟨shown, -⟩ := Sensor.setReg_writable { s.sensor with ptr := ptr } data low high (s.draws + 2)
  have hptr : (({ s.sensor with ptr := ptr } : Sensor).setReg ptr data).ptr = ptr := Sensor.setReg_ptr ..
  have hmodel : (({ s.sensor with ptr := ptr } : Sensor).setReg ptr data).model = .sim amb s.devAddr :=
    (Sensor.setReg_model ..).trans hm
  generalize ({ s.sensor with ptr := ptr } : Sensor).setReg ptr data = v at *
  have ambient : v.ptr ≠ ambientPtr := by
    rw [hptr]
    rintro rfl
    exact absurd high (by decide)
  refine ⟨_, _, run, exec_read_carried (v := v) (word := data) (planOf_rdreg low (by omega)) rfl ?address ?select ?word, rfl,
    ?response, hptr, same, other, Sensor.afterRead_sim_other hmodel ambient _⟩
  case address => rw [Sensor.answersAt_sim hmodel, decide_eq_true rfl]
  case select => rw [Sensor.takeWrite_sim_select hmodel, ← hptr]
  case word => rw [Sensor.readWord_sim v _ amb s.devAddr hmodel, Sensor.afterRead_sim_other hmodel ambient, hptr, shown]
  case response =>
    rw [ptrWidth_eq ptr (by omega), if_neg (by omega), bytesOf_two, wordOfBytes_pair, hiByte_append_loByte, List.append_assoc]
    rfl

/-- Settles O42: the select write moves the pointer to the ambient register, and the read takes the next sample, if there is one. -/
theorem simSensorShowsSuccessiveSamples : Obligations.SimSensorShowsSuccessiveSamples := by
  intro s later hline
  refine ⟨fun x rest hm => ?_, fun x hm hx => ?_⟩
  · exact exec_gettemp_sim hline hm rfl (Sensor.afterRead_sim_ambient (v := { s.sensor with ptr := 0x05#8 }) hm rfl _) rfl
  · exact exec_gettemp_sim hline hm rfl (Sensor.afterRead_sim_nil (v := { s.sensor with ptr := 0x05#8 }) hm _) hx

/-- Settles O43: a call that is never answered ends the operation on the state after it, which waits for that call. -/
theorem unansweredCallHangsTheBlock : Obligations.UnansweredCallHangsTheBlock := by
  intro s hc
  constructor
  · rintro i ptr hi c1 c2 s1 rfl hc2 rfl
    obtain ⟨high, f, plan⟩ : ptr.toNat ≤ 0x08 ∧ ∃ f, planOf i = .read ptr f := by
      obtain ⟨rfl, low, high⟩ | ⟨rfl, rfl | ⟨req, strict, rfl⟩⟩ := hi
      · exact ⟨high, _, planOf_rdreg low high⟩
      · exact ⟨by decide, _, rfl⟩
      · exact ⟨by decide, _, rfl⟩
    rw [← readCall_eq s high] at hc2
    subst hc2
    refine ⟨fun h => ?_, fun h h2 => ?_⟩
    · have wait := (State.afterCall_of_silent h).1
      exact ⟨exec_read_select_silent plan h, wait, rfl, step_waiting _ _ hc wait⟩
    · have wait := (State.afterCall_of_silent h2).1
      exact ⟨exec_read_silent plan h h2, wait, rfl, step_waiting _ _ hc wait⟩
  · rintro ptr data c low high rfl h
    have wait := (State.afterCall_of_silent h).1
    refine ⟨?_, wait, rfl, step_waiting _ _ hc wait⟩
    rw [exec_eq_run, planOf_wrreg data low high, Plan.run, regWrite_silent s ptr data h]
    rfl

/-- Settles O54: what an oracle read leaves is a function of the draw and of the words still listed. -/
theorem oracleReadDeterminesNothingAfterwards : Obligations.OracleReadDeterminesNothingAfterwards := by
  intro s s' a n reads reads' hd hd' hdraws hm hm' htail
  have transfer (k : Nat) := State.transfer_read hd (Sensor.answersAt_oracle hm a) k
  have transfer' := State.transfer_read hd' (Sensor.answersAt_oracle hm' a) n
  constructor
  · rw [State.afterCall_sensor, State.afterCall_sensor, transfer, transfer', Sensor.afterRead_oracle _ _ _ hm,
      Sensor.afterRead_oracle _ _ _ hm', hdraws, htail]
    exact Sensor.unsettled_congr ..
  · rintro w rfl
    rw [← Sensor.readWord_oracle_getD hm]
    exact ⟨congrArg Prod.fst (transfer 2), congrArg Prod.fst (transfer 1)⟩
end
